-- ==== Sys2Proof/Word.lean ====
section
/-! DEFINITION. The bit-vector types of the block (00_scope.md R9, R10; 30_encoding.md R70). -/

namespace Sys2Proof

/-- A byte: 8 bits, an unsigned number 0..255 (R9). -/
abbrev Byte := BitVec 8

/-- A 16-bit value: CRCACC, CUR, CEND, an entry of CRCTAB, a TAKE length (R26, R29, R34, R74). -/
abbrev Half := BitVec 16

/-- A command word CW or the register FINFO: 32 bits (R70, R33). -/
abbrev Word := BitVec 32

/-- The operand OPV, the registers RES and RAW, a binary64 pattern: 64 bits (R70, R21, R22, R13). -/
abbrev DWord := BitVec 64

end Sys2Proof
end

