-- ==== Sys2Proof/Syntax.lean ====
section
/-! DEFINITION. The commands of the block, what the two ports carry, and the element types
(30_encoding.md R70, R73, R75, R80). -/

namespace Sys2Proof

/-- One constructor for each of the 21 rows of the opcode table (R73). The operands are those of R74:
all unsigned, none scaled. -/
inductive Instr where
  /-- `CRCINIT` (R106). -/
  | crcinit
  /-- `CRCUPD b` (R107). -/
  | crcupd (b : Byte)
  /-- `CRCCALC` (R109). -/
  | crccalc
  /-- `CRCVFY` (R110). -/
  | crcvfy
  /-- `XBITS off, size` with the value operand OPV of its bundle (R74, R122). -/
  | xbits (off size : Byte) (value : DWord)
  /-- `DEC.BOOL` (R127). -/
  | decBool
  /-- `DEC.CHAR` (R128). -/
  | decChar
  /-- `DEC.I8` (R129). -/
  | decI8
  /-- `DEC.U8` (R130). -/
  | decU8
  /-- `DEC.I16` (R131). -/
  | decI16
  /-- `DEC.U16` (R132). -/
  | decU16
  /-- `DEC.I32` (R133). -/
  | decI32
  /-- `DEC.U32` (R134). -/
  | decU32
  /-- `DEC.I64` (R135). -/
  | decI64
  /-- `DEC.U64` (R136). -/
  | decU64
  /-- `DEC.F32` (R137). -/
  | decF32
  /-- `DEC.F64` (R138). -/
  | decF64
  /-- `DEC #t` with an element type code `t` in 12..255 (R139). -/
  | decUnk (t : Byte)
  /-- `TRIM` (R140). -/
  | trim
  /-- `TAKE L` (R153). -/
  | take (len : Half)
  /-- `PUSH b`, one byte on the RX port (R80, R151). -/
  | push (b : Byte)
  deriving DecidableEq, Repr

/-- The command bundle: the command word CW and the operand OPV, sampled together (R70). -/
structure Command where
  cw : Word
  opv : DWord
  deriving DecidableEq, Repr

/-- What one transaction carries: a bundle on the command port (R70) or a byte on the RX port (R80). -/
inductive Transaction where
  | command (c : Command)
  | rx (b : Byte)
  deriving DecidableEq, Repr

/-- The twelve element types, in the order of their codes 0..11 (R75). -/
inductive EType where
  | bool | char | i8 | u8 | i16 | u16 | i32 | u32 | i64 | u64 | f32 | f64
  deriving DecidableEq, Repr

end Sys2Proof
end

