-- ==== Sys2Proof/WellFormed.lean ====
section
/-! DEFINITION. Which terms of `Instr` are commands of the block (30_encoding.md R73, R74). -/

namespace Sys2Proof

/-- The one operand restriction an encoding of R73 has that the operand's width does not already give:
`DEC.UNK` names a code in 12..255, the codes 0..11 being the twelve named types. (`TAKE 0` is a
well-formed command that faults, R74.) -/
def Instr.wf : Instr → Bool
  | .crcinit | .crcupd _ | .crccalc | .crcvfy | .xbits _ _ _ => true
  | .decBool | .decChar | .decI8 | .decU8 | .decI16 | .decU16 => true
  | .decI32 | .decU32 | .decI64 | .decU64 | .decF32 | .decF64 => true
  | .decUnk t => decide (12 ≤ t.toNat)
  | .trim | .take _ | .push _ => true

end Sys2Proof
end

