-- ==== Sys2Proof/Decode.lean ====
section
/-! DEFINITION. Decoding of a transaction and its encoder (30_encoding.md R70 to R80). -/

namespace Sys2Proof

/-- `CW[7:0]`, the field OPC (R71). -/
def opcField (cw : Word) : Byte := cw.extractLsb' 0 8

/-- `CW[15:8]`, the field A (R71). -/
def aField (cw : Word) : Byte := cw.extractLsb' 8 8

/-- `CW[23:16]`, the field B (R71). -/
def bField (cw : Word) : Byte := cw.extractLsb' 16 8

/-- `CW[31:24]`, the field C, which must be zero (R71). -/
def cField (cw : Word) : Byte := cw.extractLsb' 24 8

/-- `CW[23:8]`, the length operand of `TAKE`: `A + 256*B` (R74). -/
def lenField (cw : Word) : Half := cw.extractLsb' 8 16

/-- A command word from its four fields, C in bits 31:24 down to OPC in bits 7:0 (R71). -/
def wordOf (c b a opc : Byte) : Word :=
  BitVec.ofNat 32 (opc.toNat + 2 ^ 8 * a.toNat + 2 ^ 16 * b.toNat + 2 ^ 24 * c.toNat)

/-- Why a command word is illegal (R76, R77), in the order the checks of R79 are made. -/
inductive Illegal where
  /-- `C != 0` (R79 step 2). -/
  | reservedC
  /-- OPC is no opcode of R73 (R79 step 3). -/
  | unknownOpcode
  /-- `A != 0` in format Z (R79 step 4). -/
  | reservedA
  /-- `B != 0` in format Z, B8 or T (R79 step 4). -/
  | reservedB
  deriving DecidableEq, Repr

/-- The outcome of decoding: a command, or illegal for the named reason. -/
inductive Decoded where
  | legal (i : Instr)
  | illegal (why : Illegal)
  deriving DecidableEq, Repr

/-- Format Z: no operand, A and B must be zero (R72, R76). -/
def decodeZ (i : Instr) (cw : Word) : Decoded :=
  if aField cw ≠ 0 then .illegal .reservedA
  else if bField cw ≠ 0 then .illegal .reservedB
  else .legal i

/-- Formats B8 and T: the operand is A, B must be zero (R72, R76). -/
def decodeA (f : Byte → Instr) (cw : Word) : Decoded :=
  if bField cw ≠ 0 then .illegal .reservedB else .legal (f (aField cw))

/-- The row of R73 that the element type code `t` selects: 0..11 the named type, else `DEC.UNK`. -/
def decodeDec (t : Byte) : Instr :=
  if t = 0 then .decBool
  else if t = 1 then .decChar
  else if t = 2 then .decI8
  else if t = 3 then .decU8
  else if t = 4 then .decI16
  else if t = 5 then .decU16
  else if t = 6 then .decI32
  else if t = 7 then .decU32
  else if t = 8 then .decI64
  else if t = 9 then .decU64
  else if t = 10 then .decF32
  else if t = 11 then .decF64
  else .decUnk t

/-- The decoding procedure of R79, total on every command bundle. OPV is an operand of `XBITS` and
ignored by every other command (R70). -/
def decodeCommand (c : Command) : Decoded :=
  if cField c.cw ≠ 0 then .illegal .reservedC
  else if opcField c.cw = 0x10 then decodeZ .crcinit c.cw
  else if opcField c.cw = 0x11 then decodeA .crcupd c.cw
  else if opcField c.cw = 0x12 then decodeZ .crccalc c.cw
  else if opcField c.cw = 0x13 then decodeZ .crcvfy c.cw
  else if opcField c.cw = 0x20 then .legal (.xbits (aField c.cw) (bField c.cw) c.opv)
  else if opcField c.cw = 0x30 then decodeA decodeDec c.cw
  else if opcField c.cw = 0x31 then decodeZ .trim c.cw
  else if opcField c.cw = 0x40 then .legal (.take (lenField c.cw))
  else .illegal .unknownOpcode

/-- Decoding of a transaction. A byte on the RX port is always `PUSH b`: all 256 values are data (R80). -/
def decode : Transaction → Decoded
  | .command c => decodeCommand c
  | .rx b => .legal (.push b)

/-- The command word of a command, from the table of R73. `PUSH` is no command word (R72); its row is
the pushed byte, here zero-extended. -/
def encodeCW : Instr → Word
  | .crcinit => wordOf 0 0 0 0x10
  | .crcupd b => wordOf 0 0 b 0x11
  | .crccalc => wordOf 0 0 0 0x12
  | .crcvfy => wordOf 0 0 0 0x13
  | .xbits off size _ => wordOf 0 size off 0x20
  | .decBool => wordOf 0 0 0 0x30
  | .decChar => wordOf 0 0 1 0x30
  | .decI8 => wordOf 0 0 2 0x30
  | .decU8 => wordOf 0 0 3 0x30
  | .decI16 => wordOf 0 0 4 0x30
  | .decU16 => wordOf 0 0 5 0x30
  | .decI32 => wordOf 0 0 6 0x30
  | .decU32 => wordOf 0 0 7 0x30
  | .decI64 => wordOf 0 0 8 0x30
  | .decU64 => wordOf 0 0 9 0x30
  | .decF32 => wordOf 0 0 10 0x30
  | .decF64 => wordOf 0 0 11 0x30
  | .decUnk t => wordOf 0 0 t 0x30
  | .trim => wordOf 0 0 0 0x31
  | .take len => wordOf 0 (len.extractLsb' 8 8) (len.extractLsb' 0 8) 0x40
  | .push b => wordOf 0 0 0 b

/-- The operand that goes beside the command word: the value of `XBITS`, 0 where OPV is ignored (R70). -/
def encodeOPV : Instr → DWord
  | .xbits _ _ value => value
  | .crcinit | .crcupd _ | .crccalc | .crcvfy => 0
  | .decBool | .decChar | .decI8 | .decU8 | .decI16 | .decU16 => 0
  | .decI32 | .decU32 | .decI64 | .decU64 | .decF32 | .decF64 => 0
  | .decUnk _ | .trim | .take _ | .push _ => 0

/-- The transaction that carries an instruction: its bundle on the command port, or, for `PUSH`, its byte
on the RX port (R70, R80). -/
def encode (i : Instr) : Transaction :=
  match i with
  | .push b => .rx b
  | .crcinit | .crcupd _ | .crccalc | .crcvfy | .xbits _ _ _
  | .decBool | .decChar | .decI8 | .decU8 | .decI16 | .decU16
  | .decI32 | .decU32 | .decI64 | .decU64 | .decF32 | .decF64
  | .decUnk _ | .trim | .take _ => .command ⟨encodeCW i, encodeOPV i⟩

/-- The transaction whose bits are `w`, as the opcode table numbers them: a row of 8 bits is a byte on
the RX port; any other row is a command word in bits 31:0 with OPV above it in bits 95:32 (log 7). Bits
at and above `nbits` are zero. -/
def tableTransaction (nbits w : Nat) : Transaction :=
  if nbits ≤ 8 then .rx (BitVec.ofNat 8 (w % 2 ^ nbits))
  else .command ⟨BitVec.ofNat 32 (w % 2 ^ nbits), BitVec.ofNat 64 (w % 2 ^ nbits / 2 ^ 32)⟩

/-- The instruction the decoder reads from a table row's bits; `none` where it refuses. -/
def decodeTableWord (nbits w : Nat) : Option Instr :=
  match decode (tableTransaction nbits w) with
  | .legal i => some i
  | .illegal _ => none

end Sys2Proof
end

