-- ==== Sys2Proof/Config.lean ====
section
/-! DEFINITION. The parameters P1 to P8 of the block (00_scope.md R8) and its free values. -/

namespace Sys2Proof

/-- P3 `CHAR_BYTES`: the byte width of element type `char`; the two legal values (R8). -/
inductive CharBytes where
  | one
  | two
  deriving DecidableEq, Repr

/-- P4 `UNKNOWN_ETYPE`: what a DEC with a type code in 12..255 does (R8, R139). -/
inductive UnknownEtype where
  /-- Fault `F_ETYPE`. -/
  | reject
  /-- Decode as a 32-bit signed integer. -/
  | defaultI32
  deriving DecidableEq, Repr

/-- The parameters a model takes as arguments (R8: P1 to P4). They are fixed for a machine; `State`
carries them so that one definition of the machine covers every legal choice (log 4). -/
structure Params where
  /-- P1 `BUF_CAP`, the capacity of RXBUF in bytes; `none` is "unbounded". -/
  bufCap : Option Nat
  /-- P2 `MAXL`, the largest frame length. -/
  maxl : Nat
  /-- P3 `CHAR_BYTES`. -/
  charBytes : CharBytes
  /-- P4 `UNKNOWN_ETYPE`. -/
  unknownEtype : UnknownEtype
  deriving DecidableEq, Repr

/-- `n` bytes are within the capacity P1 of RXBUF; always, when it is unbounded. -/
def Params.holds (p : Params) (n : Nat) : Bool :=
  match p.bufCap with
  | none => true
  | some cap => decide (n ≤ cap)

/-- What R8 demands of P1 and P2: `2 <= MAXL <= 65535` and `MAXL <= BUF_CAP`. -/
abbrev Params.Wf (p : Params) : Prop :=
  2 ≤ p.maxl ∧ p.maxl ≤ 65535 ∧ p.holds p.maxl = true

namespace Config

/-- The parameters R8 suggests (`BUF_CAP` 4096, `MAXL` 1024) or decides (`CHAR_BYTES` 1, `reject`).
DESIGN CHOICE (log 4): `State.reset` takes them; no statement rests on them. -/
def suggested : Params :=
  { bufCap := some 4096, maxl := 1024, charBytes := .one, unknownEtype := .reject }

/-- P6: the reflected polynomial of the CRC16 unit (R8). -/
def crcPoly : Half := 0xA001

/-- P6: the initial accumulator (R8). -/
def crcSeed : Half := 0xFFFF

/-- P7: the binary64 pattern a host writes into every slot of a sample vector on CRC failure
(R8, R174). Host-side: no rule of the block reads it. -/
def nanSentinel : DWord := 0x7FF8000000000000

/-- P8: the free values behind the NaN of `DEC.F32` (R8, R137, U2). The `n`-th draw reads the `n`-th
value; nothing constrains any of them (log 5). -/
opaque nanDraw : Nat → DWord

end Config

end Sys2Proof
end

