-- ==== Sys2Proof/Machine/State.lean ====
section
/-! DEFINITION. The state of the block and its environment, and the state after reset
(10_state.md R20 to R41). -/

namespace Sys2Proof.Machine

/-- Why the machine stops. A fault of the BLOCK is no stop: it is a state (`FAULT = 1`,
60_exceptions.md R206), reached by a next step. -/
inductive Fault where
  /-- Raised by `step` alone, when no agent has a turn left: "the run ends after the last event"
  (R24, log 2). Safe: the machine stands still. -/
  | runEnded
  deriving DecidableEq, Repr

/-- Why an instruction has no meaning. -/
inductive Refusal where
  /-- Raised by `exec` for an instruction that is not modelled yet. No arm answers it. Safe. -/
  | notModelled (mnemonic : String)
  deriving DecidableEq, Repr

/-- The three agents that act on the block (R20). -/
inductive Agent where
  | host
  | rx
  | reset
  deriving DecidableEq, Repr

/-- The registers and stores of the block (R21 to R33), its parameters (00_scope.md R8), the counter of
its free values (R37 (e)), and the inputs its environment has still to make (R20, R37, log 1).

`FLEN` is the length of `frame` and `RXCNT` the length of `rxbuf` (R27, R28, log 8). `STATUS` is a packing
(R39) and `CRCTAB` a constant (R34). -/
structure State where
  /-- RES (R21). -/
  res : DWord
  /-- RAW (R22). -/
  raw : DWord
  /-- ST (R25). -/
  st : BitVec 3
  /-- CRCACC (R26). -/
  crcacc : Half
  /-- RXBUF, oldest byte first (R27). -/
  rxbuf : List Byte
  /-- FRAME, exactly FLEN bytes (R28). -/
  frame : List Byte
  /-- CUR (R29). -/
  cur : Half
  /-- CEND (R29). -/
  cend : Half
  /-- FAULT (R31). -/
  fault : Bool
  /-- FCAUSE (R32). -/
  fcause : BitVec 3
  /-- FINFO (R33). -/
  finfo : Word
  /-- P1 to P4 (R8); no transition writes them. -/
  params : Params
  /-- How many free values of P8 have been drawn; the model's own (log 5). -/
  nanDraws : Nat
  /-- The commands the host has still to issue, first one first; the model's own (log 1). -/
  hostLine : List Command
  /-- The bytes the RX agent has still to deliver, first one first; the model's own (log 1). -/
  rxLine : List Byte
  /-- Whose turn it is, and whose next; the model's own (log 1). -/
  turns : List Agent
  deriving DecidableEq, Repr

/-- The reset values of R41, with the suggested parameters (log 4) and nothing yet to come (log 1). -/
def State.reset : State :=
  { res := 0
    raw := 0
    st := 0
    crcacc := 0xFFFF
    rxbuf := []
    frame := []
    cur := 0
    cend := 0
    fault := false
    fcause := 0
    finfo := 0
    params := Config.suggested
    nanDraws := 0
    hostLine := []
    rxLine := []
    turns := [] }

end Sys2Proof.Machine
end

