-- ==== Sys2Proof/Machine/Operands.lean ====
section
/-! DEFINITION. Byte order, sign, and the operand forms of the commands: immediate operands come out of
the decoder; the implicit ones are the whole frame, its body and trailer, and the decode window
(00_scope.md R10, R11, R12; 20_memory.md R50; 41_bitfield_decoder.md R123, R124). -/

namespace Sys2Proof.Machine

/-- `le(s)`: little-endian assembly, the first byte least significant (R11). -/
def le : List Byte → Nat
  | [] => 0
  | b :: bs => b.toNat + 256 * le bs

/-- `le_bytes_n(v)`: the `n` low bytes of `v`, least significant first (R11). -/
def leBytes : Nat → Nat → List Byte
  | 0, _ => []
  | n + 1, v => BitVec.ofNat 8 v :: leBytes n (v / 256)

/-- `sint_w(p)`: the two's-complement number of the `w`-bit pattern `p` (R10). -/
def sint (w p : Nat) : Int :=
  if p < 2 ^ (w - 1) then (p : Int) else (p : Int) - 2 ^ w

/-- `RXCNT`, the number of buffered bytes (R27). -/
def State.rxcnt (s : State) : Nat := s.rxbuf.length

/-- `FLEN`, the length of the frame register (R28). -/
def State.flen (s : State) : Half := BitVec.ofNat 16 s.frame.length

/-- `FRAME[a..a+n)` (R12). -/
def State.frameBytes (s : State) (a n : Nat) : List Byte := (s.frame.drop a).take n

/-- `MemRead(a, n) = le(FRAME[a..a+n))` (R12). -/
def State.memRead (s : State) (a n : Nat) : Nat := le (s.frameBytes a n)

/-- The number of bytes left in the decode window, `CEND - CUR`, on integers (R123, R126). -/
def State.windowLeft (s : State) : Int := (s.cend.toNat : Int) - (s.cur.toNat : Int)

/-- The frame without its last two bytes, `FRAME[0..FLEN-2)`: the body CRCVFY covers and the payload TRIM
selects (R15, R110, R140). -/
def frameBody (f : List Byte) : List Byte := f.take (f.length - 2)

/-- The number in the last two bytes of a frame, `FRAME[FLEN-2] + 256*FRAME[FLEN-1]` (R103, R110). -/
def frameTrailer (f : List Byte) : Nat := le (f.drop (f.length - 2))

/-- P3 as a number of bytes (R8). -/
def charWidth : CharBytes → Nat
  | .one => 1
  | .two => 2

/-- `width(t)`: the number of bytes an element of type `t` occupies (R124). -/
def width (p : Params) : EType → Nat
  | .bool => 1
  | .char => charWidth p.charBytes
  | .i8 | .u8 => 1
  | .i16 | .u16 => 2
  | .i32 | .u32 | .f32 => 4
  | .i64 | .u64 | .f64 => 8

end Sys2Proof.Machine
end

