-- ==== Sys2Proof/Machine/Flags.lean ====
section
/-! DEFINITION. Status codes, fault causes and the packing of STATUS
(10_state.md R25, R32, R39; 60_exceptions.md R201, R202). -/

namespace Sys2Proof.Machine

/-- `ST = OK` (R25). -/
def stOk : BitVec 3 := 0

/-- `ST = INSUFFICIENT` (R25). -/
def stInsufficient : BitVec 3 := 1

/-- `ST = CRCBAD` (R25). -/
def stCrcBad : BitVec 3 := 2

/-- `ST = FAULT` (R25). -/
def stFault : BitVec 3 := 7

/-- `F_ILLEGAL` (R202). -/
def causeIllegal : BitVec 3 := 1

/-- `F_LEN` (R202). -/
def causeLen : BitVec 3 := 2

/-- `F_UNDERRUN` (R202). -/
def causeUnderrun : BitVec 3 := 3

/-- `F_ETYPE` (R202). -/
def causeEtype : BitVec 3 := 4

/-- `RXFULL`: 1 exactly when `RXCNT = BUF_CAP`; always 0 when `BUF_CAP` is unbounded (R39). -/
def State.rxFull (s : State) : Bool := decide (s.params.bufCap = some s.rxcnt)

/-- `RXEMPTY`: 1 exactly when `RXCNT = 0` (R39). -/
def State.rxEmpty (s : State) : Bool := decide (s.rxcnt = 0)

/-- The push transition is enabled only when `RXCNT < BUF_CAP`; always, when unbounded (R151, R152). -/
def State.rxReady (s : State) : Bool :=
  match s.params.bufCap with
  | none => true
  | some cap => decide (s.rxcnt < cap)

/-- `STATUS`: bits 2:0 ST, bit 3 FAULT, bits 6:4 FCAUSE, bit 7 RXFULL, bit 8 RXEMPTY, bits 31:9 zero (R39). -/
def State.status (s : State) : Word :=
  BitVec.ofNat 32
    (s.st.toNat + 2 ^ 3 * s.fault.toNat + 2 ^ 4 * s.fcause.toNat + 2 ^ 7 * s.rxFull.toNat +
      2 ^ 8 * s.rxEmpty.toNat)

end Sys2Proof.Machine
end

