-- ==== Sys2Proof/Machine/Ops.lean ====
section
/-! DEFINITION. The shared operations: fault entry and its return, what a faulted block does with a
command, the two queues of the assembler, and the two read ports (60_exceptions.md R206, R207, R210;
42_frame_assembler.md R151 to R153; 10_state.md R38, R40). -/

namespace Sys2Proof.Machine

/-- The outcome of a step or of an instruction. -/
abbrev Result := Host.Outcome State Fault Refusal

/-- Fault entry, `raise Fault(cause)`, for the command word `cw` being executed (R206): the fault bit, the
cause, the command word and ST, and nothing else. -/
def raiseFault (cause : BitVec 3) (cw : Word) (s : State) : State :=
  { s with fault := true, fcause := cause, finfo := cw, st := stFault }

/-- The return from a fault, which only reset is (R210, R230): every register and store of the block at the
value R41 gives. What the environment has still to do, the parameters and the draw counter are not state of
the block and stay (log 10). -/
def resetBlock (s : State) : State :=
  { s with
    res := 0, raw := 0, st := 0, crcacc := 0xFFFF, rxbuf := [], frame := [], cur := 0, cend := 0,
    fault := false, fcause := 0, finfo := 0 }

/-- A command on the command port: while `FAULT = 1` it is ignored and changes no state at all (R207,
R208 (1)); otherwise it has its effect. -/
def onCommandPort (effect : State → State) (s : State) : Result :=
  .next (if s.fault then s else effect s)

/-- The status a completed command leaves in ST (R200, R201). -/
def setStatus (st : BitVec 3) (s : State) : State := { s with st := st }

/-- An illegal command word raises F_ILLEGAL before anything else is looked at (R77, R203). -/
def illegalCommand (cw : Word) (s : State) : Result :=
  onCommandPort (raiseFault causeIllegal cw) s

/-- A byte offered on the RX port. With room it is appended at the tail of RXBUF (R151); without, the
block's state does not change and the RX agent keeps the byte, to offer it again (R152, log 3). -/
def receiveByte (b : Byte) (s : State) : State :=
  if s.rxReady then { s with rxbuf := s.rxbuf ++ [b] } else { s with rxLine := b :: s.rxLine }

/-- The part of TAKE that moves a frame of `n` bytes out of RXBUF and opens the window over it (R153). -/
def moveFrame (n : Nat) (s : State) : State :=
  { s with
    frame := s.rxbuf.take n
    rxbuf := s.rxbuf.drop n
    cur := 0
    cend := BitVec.ofNat 16 n }

/-- The observation port (R38): the register at an index, zero-extended, with no side effect. An index of 9
or above reads an unspecified value, the argument `free`, which nothing constrains (U6, log 9). -/
def State.observe (s : State) (index free : Nat) : Nat :=
  match index with
  | 0 => s.res.toNat
  | 1 => s.raw.toNat
  | 2 => s.crcacc.toNat
  | 3 => s.rxcnt
  | 4 => s.flen.toNat
  | 5 => s.cur.toNat
  | 6 => s.cend.toNat
  | 7 => s.status.toNat
  | 8 => s.finfo.toNat
  | _ => free

/-- The frame read port (R40): `FRAME[i]` for `i < FLEN`, with no side effect. At or above FLEN the value is
unspecified, the argument `free`, which nothing constrains (U5, log 9). -/
def State.readFrame (s : State) (i : Nat) (free : Byte) : Byte := s.frame.getD i free

end Sys2Proof.Machine
end

