-- ==== Sys2Proof/Machine/Assembler.lean ====
section
/-! DEFINITION. The frame assembler: TAKE and PUSH (42_frame_assembler.md R150 to R156). -/

namespace Sys2Proof.Machine

/-- TAKE of `n` bytes: F_LEN for 0 or above MAXL, checked first; INSUFFICIENT, consuming nothing, when fewer
than `n` bytes are buffered; else the oldest `n` bytes become the frame (R153). -/
def takeFrame (n : Nat) (cw : Word) (s : State) : State :=
  if n = 0 ∨ s.params.maxl < n then raiseFault causeLen cw s
  else if s.rxcnt < n then setStatus stInsufficient s
  else setStatus stOk (moveFrame n s)

/-- `TAKE L` (R153). -/
def execTake (len : Half) (s : State) : Result :=
  onCommandPort (takeFrame len.toNat (encodeCW (.take len))) s

/-- `PUSH b` (R151, R152): no command, so a faulted block accepts it too (R207). -/
def execPush (b : Byte) (s : State) : Result := .next (receiveByte b s)

end Sys2Proof.Machine
end

