-- ==== Sys2Proof/Machine/Crc.lean ====
section
/-! DEFINITION. The CRC16 unit: its functions and its four commands (40_crc16.md R100 to R110). -/

namespace Sys2Proof.Machine

/-- One shift-and-conditional-XOR step of the reflected CRC (R100). -/
def crcShift (c : Half) : Half :=
  if c.getLsbD 0 then (c >>> 1) ^^^ Config.crcPoly else c >>> 1

/-- `n` shift steps. -/
def crcShifts : Nat → Half → Half
  | 0, c => c
  | n + 1, c => crcShifts n (crcShift c)

/-- The entry of `CRCTAB` at index `i`: eight shift steps from `c0 = i` (R34, R100). -/
def crcTab (i : Byte) : Half := crcShifts 8 (i.zeroExtend 16)

/-- `crc_step(c, b) = (c >> 8) ^ CRCTAB[(c ^ b) & 0xFF]` (R101). -/
def crcStep (c : Half) (b : Byte) : Half := (c >>> 8) ^^^ crcTab (c.truncate 8 ^^^ b)

/-- `crc_step` folded over a byte string from the accumulator `c` (R102, R105 (d)). -/
def crcFold (c : Half) (s : List Byte) : Half := s.foldl crcStep c

/-- `crc16(s)`, OSC's `calculate(bytes)` (R102). -/
def crc16 (s : List Byte) : Half := crcFold Config.crcSeed s

/-- `verify(s)` (R103). -/
def verify (s : List Byte) : Bool :=
  if s.length < 2 then false else decide ((crc16 (frameBody s)).toNat = frameTrailer s)

/-- `trailer(s)`: the two bytes a sender appends, low byte first (R104). -/
def trailer (s : List Byte) : List Byte :=
  [(crc16 s).extractLsb' 0 8, (crc16 s).extractLsb' 8 8]

/-- `CRCACC <- c`, `ST <- OK`: what the streaming commands and CRCCALC do (R106, R107, R109). -/
def setCrc (c : Half) (s : State) : State := setStatus stOk { s with crcacc := c }

/-- What CRCVFY does: below two bytes CRCBAD and CRCACC unchanged, else the CRC of the body compared with
the trailer (R110). -/
def verifyFrame (s : State) : State :=
  if s.frame.length < 2 then setStatus stCrcBad s
  else
    setStatus
      (if (crc16 (frameBody s.frame)).toNat = frameTrailer s.frame then stOk else stCrcBad)
      { s with crcacc := crc16 (frameBody s.frame) }

/-- `CRCINIT` (R106). -/
def execCrcinit (s : State) : Result := onCommandPort (setCrc Config.crcSeed) s

/-- `CRCUPD b` (R107). -/
def execCrcupd (b : Byte) (s : State) : Result :=
  onCommandPort (fun t => setCrc (crcStep t.crcacc b) t) s

/-- `CRCCALC` (R109). -/
def execCrccalc (s : State) : Result := onCommandPort (fun t => setCrc (crc16 t.frame) t) s

/-- `CRCVFY` (R110). -/
def execCrcvfy (s : State) : Result := onCommandPort verifyFrame s

end Sys2Proof.Machine
end

