-- ==== Sys2Proof/Machine/Float.lean ====
section
/-! DEFINITION. The conversions to a double and how a pattern reads as a number
(00_scope.md R13; 41_bitfield_decoder.md R125, R137, R142). -/

namespace Sys2Proof.Machine

/-- `isNaN(d)`: `d[62:52] = 0x7FF` and `d[51:0] != 0` (R13). -/
def isNaN (d : DWord) : Bool :=
  decide (d.extractLsb' 52 11 = 0x7FF ∧ d.extractLsb' 0 52 ≠ 0)

/-- A binary32 pattern is a NaN: `p[30:23] = 255` and `p[22:0] != 0` (R13, R137). -/
def isNaN32 (p : Word) : Bool :=
  decide (p.extractLsb' 23 8 = 255 ∧ p.extractLsb' 0 23 ≠ 0)

/-- `m / 2^k` rounded to the nearest natural number, ties to the even one (R13, D8). -/
def roundShift (m k : Nat) : Nat :=
  let q := m / 2 ^ k
  let r := m % 2 ^ k
  if 2 ^ k < 2 * r ∨ (2 * r = 2 ^ k ∧ q % 2 = 1) then q + 1 else q

/-- The 53-bit significand of the natural number `m > 0` whose leading bit is bit `e`: exact for `e <= 52`,
rounded above (R13). A round up to `2^53` is `2^53` here and moves the exponent by its carry. -/
def significand (m e : Nat) : Nat :=
  if e ≤ 52 then m * 2 ^ (52 - e) else roundShift m (e - 52)

/-- `f64_of_int` of a natural number: the pattern of the nearest double, ties to even (R13). The exponent
field is `e + 1023`; the significand's own leading bit is taken off by adding it to `e + 1022`. -/
def f64OfNat (m : Nat) : DWord :=
  if m = 0 then 0
  else BitVec.ofNat 64 ((m.log2 + 1022) * 2 ^ 52 + significand m m.log2)

/-- `f64_of_int(n)` (R13): the magnitude's pattern with the sign in bit 63; integer 0 gives +0.0. For
`|n| < 2^1023` (log 11); every integer the block converts has `|n| < 2^64`. -/
def f64OfInt (n : Int) : DWord :=
  if n < 0 then 0x8000000000000000 ||| f64OfNat n.natAbs else f64OfNat n.natAbs

/-- The NaN that a free value `d` stands for: `d` itself where it is a NaN, and a NaN made of it where it is
not, so that every NaN and nothing but a NaN can come out (R137, P8, log 5). -/
def nanOf (d : DWord) : DWord := if isNaN d then d else 0x7FF8000000000000 ||| d

/-- `f64_of_f32(p)` (R137): signed zero; a subnormal `f * 2^-149`, exact; a normal number; infinity; and
for a NaN the NaN that the free value `d` stands for. -/
def f64OfF32 (p : Word) (d : DWord) : DWord :=
  let s : Nat := (p.extractLsb' 31 1).toNat
  let e : Nat := (p.extractLsb' 23 8).toNat
  let f : Nat := (p.extractLsb' 0 23).toNat
  if e = 0 then
    if f = 0 then BitVec.ofNat 64 (s * 2 ^ 63)
    else
      -- f = 2^k * (1 + …), so the value has exponent field k - 149 + 1023 = k + 874
      BitVec.ofNat 64 (s * 2 ^ 63 + (f.log2 + 873) * 2 ^ 52 + f * 2 ^ (52 - f.log2))
  else if e < 255 then BitVec.ofNat 64 (s * 2 ^ 63 + (e + 896) * 2 ^ 52 + f * 2 ^ 29)
  else if f = 0 then BitVec.ofNat 64 (s * 2 ^ 63 + 0x7FF * 2 ^ 52)
  else nanOf d

/-- A double is finite: its exponent field is not `0x7FF` (R13). -/
def isFinite64 (d : DWord) : Bool := decide (d.extractLsb' 52 11 ≠ 0x7FF)

/-- The number a finite binary64 pattern reads as (R13): sign bit 63, exponent 62:52, fraction 51:0. -/
def f64Value (d : DWord) : ℚ :=
  let s : Nat := (d.extractLsb' 63 1).toNat
  let e : Nat := (d.extractLsb' 52 11).toNat
  let f : Nat := (d.extractLsb' 0 52).toNat
  let magnitude : ℚ :=
    if e = 0 then (f : ℚ) / 2 ^ 1074 else ((2 ^ 52 + f : Nat) : ℚ) * 2 ^ e / 2 ^ 1075
  if s = 1 then -magnitude else magnitude

/-- The number a finite binary32 pattern reads as (R13): sign bit 31, exponent 30:23, fraction 22:0. -/
def f32Value (p : Word) : ℚ :=
  let s : Nat := (p.extractLsb' 31 1).toNat
  let e : Nat := (p.extractLsb' 23 8).toNat
  let f : Nat := (p.extractLsb' 0 23).toNat
  let magnitude : ℚ :=
    if e = 0 then (f : ℚ) / 2 ^ 149 else ((2 ^ 23 + f : Nat) : ℚ) * 2 ^ e / 2 ^ 150
  if s = 1 then -magnitude else magnitude

end Sys2Proof.Machine
end

