-- ==== Sys2Proof/Machine/Decoder.lean ====
section
/-! DEFINITION. The bitfield extractor and the primitive-type decoder: XBITS, the DEC commands and TRIM
(41_bitfield_decoder.md R120 to R142). -/

namespace Sys2Proof.Machine

/-- `extractBits(v, off, size)` on natural numbers, so that no mask and no shift wraps (R121). -/
def extractBits (v off size : Nat) : Nat :=
  if size = 0 then v else v / 2 ^ off % 2 ^ size

/-- `conv(t, p)`: the double a DEC of type `t` returns for the raw pattern `p` (R125). `d` is the free value
that only a binary32 NaN uses (R137, P8). -/
def conv (t : EType) (p : Nat) (d : DWord) : DWord :=
  match t with
  | .bool => if p ≠ 0 then 0x3FF0000000000000 else 0
  | .char | .u8 | .u16 | .u32 | .u64 => f64OfInt p
  | .i8 => f64OfInt (sint 8 p)
  | .i16 => f64OfInt (sint 16 p)
  | .i32 => f64OfInt (sint 32 p)
  | .i64 => f64OfInt (sint 64 p)
  | .f32 => f64OfF32 (BitVec.ofNat 32 p) d
  | .f64 => BitVec.ofNat 64 p

/-- Whether the conversion of `p` uses a free value: a binary32 NaN alone does (R137, R142 (c)). -/
def usesDraw (t : EType) (p : Nat) : Bool :=
  decide (t = .f32) && isNaN32 (BitVec.ofNat 32 p)

/-- The raw pattern of the element of type `t` at the cursor, `le(FRAME[CUR..CUR+w))` (R126). -/
def State.elementAtCursor (s : State) (t : EType) : Nat :=
  s.memRead s.cur.toNat (width s.params t)

/-- What a DEC that completes does: RAW, RES, CUR and ST, and the next free value if one was used (R126). -/
def readElement (t : EType) (s : State) : State :=
  { s with
    raw := BitVec.ofNat 64 (s.elementAtCursor t)
    res := conv t (s.elementAtCursor t) (Config.nanDraw s.nanDraws)
    cur := s.cur + BitVec.ofNat 16 (width s.params t)
    st := stOk
    nanDraws := if usesDraw t (s.elementAtCursor t) then s.nanDraws + 1 else s.nanDraws }

/-- The common behaviour of the DEC commands: F_UNDERRUN when fewer than `width(t)` bytes are left in the
window, else the element at the cursor (R126). -/
def decodeElement (t : EType) (cw : Word) (s : State) : State :=
  if s.windowLeft < (width s.params t : Int) then raiseFault causeUnderrun cw s else readElement t s

/-- DEC of an unknown type code: F_ETYPE, or a 32-bit signed decode, by parameter P4 (R139). -/
def decodeUnknown (cw : Word) (s : State) : State :=
  match s.params.unknownEtype with
  | .reject => raiseFault causeEtype cw s
  | .defaultI32 => decodeElement .i32 cw s

/-- TRIM: the window over the frame without its trailer, rewound; F_LEN on a frame shorter than a
trailer (R140). -/
def trimWindow (cw : Word) (s : State) : State :=
  if s.frame.length < 2 then raiseFault causeLen cw s
  else setStatus stOk { s with cur := 0, cend := BitVec.ofNat 16 (s.frame.length - 2) }

/-- `XBITS off, size` on the operand OPV (R122). -/
def execXbits (off size : Byte) (value : DWord) (s : State) : Result :=
  onCommandPort
    (fun t => setStatus stOk
      { t with res := BitVec.ofNat 64 (extractBits value.toNat off.toNat size.toNat) }) s

/-- `DEC.BOOL` (R127). -/
def execDecBool (s : State) : Result := onCommandPort (decodeElement .bool (encodeCW .decBool)) s

/-- `DEC.CHAR` (R128). -/
def execDecChar (s : State) : Result := onCommandPort (decodeElement .char (encodeCW .decChar)) s

/-- `DEC.I8` (R129). -/
def execDecI8 (s : State) : Result := onCommandPort (decodeElement .i8 (encodeCW .decI8)) s

/-- `DEC.U8` (R130). -/
def execDecU8 (s : State) : Result := onCommandPort (decodeElement .u8 (encodeCW .decU8)) s

/-- `DEC.I16` (R131). -/
def execDecI16 (s : State) : Result := onCommandPort (decodeElement .i16 (encodeCW .decI16)) s

/-- `DEC.U16` (R132). -/
def execDecU16 (s : State) : Result := onCommandPort (decodeElement .u16 (encodeCW .decU16)) s

/-- `DEC.I32` (R133). -/
def execDecI32 (s : State) : Result := onCommandPort (decodeElement .i32 (encodeCW .decI32)) s

/-- `DEC.U32` (R134). -/
def execDecU32 (s : State) : Result := onCommandPort (decodeElement .u32 (encodeCW .decU32)) s

/-- `DEC.I64` (R135). -/
def execDecI64 (s : State) : Result := onCommandPort (decodeElement .i64 (encodeCW .decI64)) s

/-- `DEC.U64` (R136). -/
def execDecU64 (s : State) : Result := onCommandPort (decodeElement .u64 (encodeCW .decU64)) s

/-- `DEC.F32` (R137). -/
def execDecF32 (s : State) : Result := onCommandPort (decodeElement .f32 (encodeCW .decF32)) s

/-- `DEC.F64` (R138). -/
def execDecF64 (s : State) : Result := onCommandPort (decodeElement .f64 (encodeCW .decF64)) s

/-- `DEC.UNK`, that is `DEC #t` with `t` in 12..255 (R139). -/
def execDecUnk (t : Byte) (s : State) : Result :=
  onCommandPort (decodeUnknown (encodeCW (.decUnk t))) s

/-- `TRIM` (R140). -/
def execTrim (s : State) : Result := onCommandPort (trimWindow (encodeCW .trim)) s

end Sys2Proof.Machine
end

