-- ==== Sys2Proof/Machine/Dispatch.lean ====
section
/-! DEFINITION. One arm per instruction (30_encoding.md R73). -/

namespace Sys2Proof.Machine

/-- The meaning of one transaction on the block. -/
def exec (i : Instr) (s : State) : Host.Outcome State Fault Refusal :=
  match i with
  | .crcinit => Sys2Proof.Machine.execCrcinit s
  | .crcupd b => Sys2Proof.Machine.execCrcupd b s
  | .crccalc => Sys2Proof.Machine.execCrccalc s
  | .crcvfy => Sys2Proof.Machine.execCrcvfy s
  | .xbits off size value => Sys2Proof.Machine.execXbits off size value s
  | .decBool => Sys2Proof.Machine.execDecBool s
  | .decChar => Sys2Proof.Machine.execDecChar s
  | .decI8 => Sys2Proof.Machine.execDecI8 s
  | .decU8 => Sys2Proof.Machine.execDecU8 s
  | .decI16 => Sys2Proof.Machine.execDecI16 s
  | .decU16 => Sys2Proof.Machine.execDecU16 s
  | .decI32 => Sys2Proof.Machine.execDecI32 s
  | .decU32 => Sys2Proof.Machine.execDecU32 s
  | .decI64 => Sys2Proof.Machine.execDecI64 s
  | .decU64 => Sys2Proof.Machine.execDecU64 s
  | .decF32 => Sys2Proof.Machine.execDecF32 s
  | .decF64 => Sys2Proof.Machine.execDecF64 s
  | .decUnk t => Sys2Proof.Machine.execDecUnk t s
  | .trim => Sys2Proof.Machine.execTrim s
  | .take len => Sys2Proof.Machine.execTake len s
  | .push b => Sys2Proof.Machine.execPush b s

end Sys2Proof.Machine
end

