-- ==== Sys2Proof/Machine/Turns.lean ====
section
/-! DEFINITION. What an agent does with its turn: the host issues a command, the RX agent offers a byte, the
environment resets (10_state.md R20; 20_memory.md R57; 30_encoding.md R79, R80; log 1). -/

namespace Sys2Proof.Machine

/-- A transaction on the block: a command is decoded and executed or, if its word is illegal, raises
F_ILLEGAL (R77, R79); a byte is `PUSH b`, whichever byte it is (R80). -/
def runTransaction (t : Transaction) (s : State) : Result :=
  match t with
  | .command c =>
    match decodeCommand c with
    | .legal i => exec i s
    | .illegal _ => illegalCommand c.cw s
  | .rx b => exec (.push b) s

/-- The host's turn: its next command, taken off its line; an idle turn if it has none (log 2). -/
def hostTurn (s : State) : Result :=
  match s.hostLine with
  | [] => .next s
  | c :: cs => runTransaction (.command c) { s with hostLine := cs }

/-- The RX agent's turn: its next byte, taken off its line; an idle turn if it has none (log 2). -/
def rxTurn (s : State) : Result :=
  match s.rxLine with
  | [] => .next s
  | b :: bs => runTransaction (.rx b) { s with rxLine := bs }

/-- The turn of an agent (R20). -/
def turnOf (a : Agent) (s : State) : Result :=
  match a with
  | .host => hostTurn s
  | .rx => rxTurn s
  | .reset => .next (resetBlock s)

/-- A transaction put first on its agent's line, with that agent's turn first (log 1). -/
def placeTransaction (t : Transaction) (s : State) : State :=
  match t with
  | .command c => { s with hostLine := c :: s.hostLine, turns := .host :: s.turns }
  | .rx b => { s with rxLine := b :: s.rxLine, turns := .rx :: s.turns }

end Sys2Proof.Machine
end

