-- ==== Sys2Proof/Machine/Step.lean ====
section
/-! DEFINITION. One transition of the machine (10_state.md R20, R24; 20_memory.md R57; log 1). -/

namespace Sys2Proof.Machine

/-- One step: the first turn is taken off `turns` and its agent acts; with no turn left the run has
ended (R24, log 2). -/
def step (s : State) : Host.Outcome State Fault Refusal :=
  match s.turns with
  | [] => .fault .runEnded
  | a :: ts => turnOf a { s with turns := ts }

/-- `s` with the transaction of a table row placed so that the very next step runs it (log 1, log 7). -/
def State.withFetchWord (s : State) (nbits w : Nat) : State :=
  placeTransaction (tableTransaction nbits w) s

end Sys2Proof.Machine
end

