-- ==== Sys2Proof/Machine/Link.lean ====
section
/-! DEFINITION. The host's side of the block: the frames on the wire, the pseudo-instructions and the command
sequences by which a host uses the three units (30_encoding.md R81, R83, R85; 43_link_sequences.md R170 to
R180). They bind the host, not the block; each one only issues commands to it (log 12). -/

namespace Sys2Proof.Machine

/-- A channel descriptor: device address, element type, bit offset and bit size (R15, R173). Its name is not
used, and its byte size is `width` of its type. -/
structure Channel where
  addr : Word
  etype : EType
  bitOffset : Byte
  bitSize : Byte
  deriving DecidableEq, Repr

/-- The code of an element type on the command port (R75). -/
def etypeCode : EType → Byte
  | .bool => 0
  | .char => 1
  | .i8 => 2
  | .u8 => 3
  | .i16 => 4
  | .u16 => 5
  | .i32 => 6
  | .u32 => 7
  | .i64 => 8
  | .u64 => 9
  | .f32 => 10
  | .f64 => 11

/-- `DECODE <NAME>`: the DEC command of an element type (R85). -/
def decOf : EType → Instr
  | .bool => .decBool
  | .char => .decChar
  | .i8 => .decI8
  | .u8 => .decU8
  | .i16 => .decI16
  | .u16 => .decU16
  | .i32 => .decI32
  | .u32 => .decU32
  | .i64 => .decI64
  | .u64 => .decU64
  | .f32 => .decF32
  | .f64 => .decF64

/-- `RX b0 b1 …`: one underlying read, a push for each byte in order (R80, R85). -/
def rxRun (bs : List Byte) : List Instr := bs.map .push

/-- `CRCMSG b0 b1 …`: CRCINIT and a CRCUPD for each byte in order (R85). -/
def crcMsg (bs : List Byte) : List Instr := .crcinit :: bs.map .crcupd

/-- A frame from its body: the body and its trailer (R81). -/
def frameOf (body : List Byte) : List Byte := body ++ trailer body

/-- The sum of the channels' byte sizes: the payload of a capture frame (R83 (c), R171). -/
def payloadLength (p : Params) (chs : List Channel) : Nat := (chs.map fun ch => width p ch.etype).sum

/-- `frameLength`, the payload and the two bytes of the trailer (R171). -/
def frameLength (p : Params) (chs : List Channel) : Nat := payloadLength p chs + 2

/-- The body of the start request: `01 17`, then for each channel its address in four bytes and its byte
size in one (R83 (a), R177). -/
def startBody (p : Params) (chs : List Channel) : List Byte :=
  [0x01, 0x17] ++
    chs.flatMap fun ch => leBytes 4 ch.addr.toNat ++ [BitVec.ofNat 8 (width p ch.etype)]

/-- The continuous-capture start request (R83 (a), R177). -/
def startRequest (p : Params) (chs : List Channel) : List Byte := frameOf (startBody p chs)

/-- The stop or pause request, four fixed bytes (R83 (b), R178). -/
def stopRequest : List Byte := [0x01, 0x18, 0x00, 0x2A]

/-- The state of a result; `s` itself where there is no next state, which happens to no instruction and to no
agent's turn. -/
def nextOr (s : State) (r : Result) : State :=
  match r with
  | .next t => t
  | .fault _ => s
  | .refused _ => s

/-- The state after the host has issued one instruction (or the RX agent pushed one byte). -/
def issue (i : Instr) (s : State) : State := nextOr s (exec i s)

/-- The state after a sequence of instructions, the first one first (R57). -/
def issueAll : List Instr → State → State
  | [], s => s
  | i :: is, s => issueAll is (issue i s)

/-- `k` turns of the RX agent: the next `k` bytes of its line are offered, first one first (R80, R152). -/
def rxTurns : Nat → State → State
  | 0, s => s
  | k + 1, s => rxTurns k (nextOr s (rxTurn s))

/-- One command of a host sequence, after `k` turns of the RX agent: any number of pushes may fall before it (R60). -/
def issueAfter (k : Nat) (i : Instr) (s : State) : State := issue i (rxTurns k s)

/-- The pushes that fall between the commands of a host sequence (R60): entry `k` is how many turns the RX agent has
before the sequence's command `k`. No rule bounds them, so a sequence takes them as an argument (log 12). -/
abbrev Gaps := Nat → Nat

/-- The gaps from command `n` on. -/
def gapsFrom (n : Nat) (gaps : Gaps) : Gaps := fun k => gaps (n + k)

/-- The state after a sequence of commands with pushes before each (R57, R60). -/
def issueSpaced : List Instr → Gaps → State → State
  | [], _, s => s
  | i :: is, gaps, s => issueSpaced is (gapsFrom 1 gaps) (issueAfter (gaps 0) i s)

/-- Sequence TRAILER with pushes between its commands: the block afterwards, and the finished frame
`m ++ [CRCACC[7:0], CRCACC[15:8]]` (R60, R176). -/
def trailerSequence (m : List Byte) (gaps : Gaps) (s : State) : State × List Byte :=
  let t := issueSpaced (crcMsg m) gaps s
  (t, m ++ [t.crcacc.extractLsb' 0 8, t.crcacc.extractLsb' 8 8])

/-- Whether the sample of a channel is its whole element: bit size 0, or a float (R173). -/
def Channel.whole (ch : Channel) : Bool :=
  decide (ch.bitSize = 0) || decide (ch.etype = .f32) || decide (ch.etype = .f64)

/-- One channel's sample: DEC, and for a bit field XBITS on RAW, widened by the host (R172 lines 6 and 7, R173). Gap 0
is before the DEC, gap 1 before the XBITS. -/
def sampleChannel (ch : Channel) (gaps : Gaps) (s : State) : State × DWord :=
  let t := issueAfter (gaps 0) (decOf ch.etype) s
  if ch.whole then (t, t.res)
  else
    let u := issueAfter (gaps 1) (.xbits ch.bitOffset ch.bitSize t.raw) t
    (u, if ch.etype = .bool then (if u.res ≠ 0 then 0x3FF0000000000000 else 0) else f64OfInt u.res.toNat)

/-- The samples of the channels in declared order, over one shared cursor (R172 lines 5 to 7). Each channel has two
gaps, used or not. -/
def sampleChannels : List Channel → Gaps → State → State × List DWord
  | [], _, s => (s, [])
  | ch :: chs, gaps, s =>
    let r := sampleChannel ch gaps s
    let rest := sampleChannels chs (gapsFrom 2 gaps) r.1
    (rest.1, r.2 :: rest.2)

/-- The operand of the TAKE by which the host asks for `n` bytes. TAKE carries 16 bits (R74), and the spec bounds
neither the number of channels nor a reply's length (R83, N25). DESIGN CHOICE (log 16): a host that wants a length
which does not fit issues `TAKE 0`, so that the TAKE of every length outside 1..MAXL faults F_LEN, as R171 says. -/
def takeLength (n : Nat) : Half := if n < 2 ^ 16 then BitVec.ofNat 16 n else 0

/-- How a host's wait for a frame ends (R85, R179). -/
inductive PollEnd where
  /-- `ST = 0`: TAKE gave a frame. -/
  | taken
  /-- `ST = 7`: the block is faulted. -/
  | faulted
  /-- The host stops repeating TAKE: it cancels the wait, or its timer ends it (R175, R179). -/
  | stopped
  deriving DecidableEq, Repr

/-- `POLLTAKE`: issue TAKE, read ST, and while it is INSUFFICIENT wait for pushes and repeat (R85, R172 line 1, R175
line 1, R179). `waits` has one entry for each TAKE the host is ready to issue: how many turns the RX agent has before
it. The rules fix neither (R179), so it is an argument; its end is where the host stops (log 12). -/
def pollTake (len : Half) : List Nat → State → State × PollEnd
  | [], s => (s, .stopped)
  | k :: ks, s =>
    let t := issueAfter k (.take len) s
    if t.st = stInsufficient then pollTake len ks t
    else (t, if t.st = stOk then .taken else .faulted)

/-- How sequence CAPTURE-FRAME ends. -/
inductive CaptureOutcome where
  /-- A sample vector is emitted (R172 lines 8 and 11). -/
  | emitted (samples : List DWord)
  /-- Nothing is emitted: the block is faulted, which is no good end (R207; R171 for a frame length outside
  1..MAXL; DESIGN CHOICE, log 17). -/
  | faulted
  /-- Nothing is emitted: the wait is cancelled, which is not an error (R179). -/
  | stopped
  deriving DecidableEq, Repr

/-- R172 lines 2 to 11, on the frame just taken: a frame that verifies is decoded, one that does not gives a sentinel
in every slot (R174). Gap 0 is before CRCVFY, gap 1 before TRIM, the rest before the channels' commands (R60). -/
def captureTaken (chs : List Channel) (gaps : Gaps) (s : State) : State × CaptureOutcome :=
  let t := issueAfter (gaps 0) .crcvfy s
  if t.st = stOk then
    let r := sampleChannels chs (gapsFrom 2 gaps) (issueAfter (gaps 1) .trim t)
    (r.1, .emitted r.2)
  else if t.st = stCrcBad then (t, .emitted (chs.map fun _ => Config.nanSentinel))
  else (t, .faulted)

/-- Sequence CAPTURE-FRAME over a wait of the host, with pushes before each later command too: the block afterwards, and
how the sequence ends (R60, R172, R174, R179).
A frame length that does not fit TAKE's 16 bits is asked for as `takeLength` says, and faults (R171, log 16). -/
def captureFrame (chs : List Channel) (waits : List Nat) (gaps : Gaps) (s : State) : State × CaptureOutcome :=
  let p := pollTake (takeLength (frameLength s.params chs)) waits s
  match p.2 with
  | .taken => captureTaken chs gaps p.1
  | .faulted => (p.1, .faulted)
  | .stopped => (p.1, .stopped)

/-- How sequence REPLY ends for the pending command (R175). -/
inductive ReplyOutcome where
  /-- The command is resolved with the reply's bytes. DESIGN CHOICE (log 12): all `L` of them, trailer included,
  which R175 and D32 leave open. -/
  | resolved (bytes : List Byte)
  /-- The command fails with a CRC-validation error. -/
  | crcFailure
  /-- The command fails because the block is faulted: its `L` is outside 1..MAXL, or the block was faulted before
  (R171, R207, log 17). -/
  | blockFault
  /-- The host stops the wait: its timer ends it (R175, R179), and what becomes of the command is the timer's
  business (R6 (b)). -/
  | stopped
  deriving DecidableEq, Repr

/-- R175 lines 2 to 4, on the reply just taken, gap 0 before CRCVFY (R60). Its bytes are FRAME's, as the frame read port gives them (R40). -/
def replyTaken (gaps : Gaps) (s : State) : State × ReplyOutcome :=
  let t := issueAfter (gaps 0) .crcvfy s
  if t.st = stOk then (t, .resolved t.frame)
  else if t.st = stCrcBad then (t, .crcFailure)
  else (t, .blockFault)

/-- Sequence REPLY for a reply of `len` bytes, over a wait of the host and a gap before CRCVFY (R60, R175,
R179). A length that does not fit TAKE's
16 bits is asked for as `takeLength` says, and faults (R171, log 16). -/
def replySequence (len : Nat) (waits : List Nat) (gaps : Gaps) (s : State) : State × ReplyOutcome :=
  let p := pollTake (takeLength len) waits s
  match p.2 with
  | .taken => replyTaken gaps p.1
  | .faulted => (p.1, .blockFault)
  | .stopped => (p.1, .stopped)

end Sys2Proof.Machine
end

