-- ==== Sys2Proof/Safety.lean ====
section
/-! DEFINITION. What counts as a safe state and a safe run, in the terms the statements use: the invariants of
10_state.md R25 and R30 to R33, the unfaulted end of 60_exceptions.md R207, the illegal words of 30_encoding.md
R76 and R77, the bytes a run takes (20_memory.md R58, R59), and what "nearest, ties to even" means
(00_scope.md R13). -/

namespace Sys2Proof.Machine

/-- The invariant of R30, with what R8 demands of the parameters: `CUR <= CEND <= FLEN <= MAXL` and
`RXCNT <= BUF_CAP`. (`len(FRAME) = FLEN` and `RXCNT = len(RXBUF)` are how FLEN and RXCNT are held, log 8.) -/
abbrev State.StoresOk (s : State) : Prop :=
  s.params.Wf ∧ s.cur.toNat ≤ s.cend.toNat ∧ s.cend.toNat ≤ s.frame.length ∧
    s.frame.length ≤ s.params.maxl ∧ s.params.holds s.rxcnt = true

/-- The invariant of the fault and status registers: `FCAUSE != 0` exactly when `FAULT = 1` and then at most 4
(R32), FINFO zero while `FAULT = 0` (R33), ST seven exactly when `FAULT = 1` and else 0, 1 or 2 (R25, R206,
R207). -/
abbrev State.FaultRegsOk (s : State) : Prop :=
  if s.fault then s.st = 7 ∧ s.fcause ≠ 0 ∧ s.fcause.toNat ≤ 4
  else s.st.toNat ≤ 2 ∧ s.fcause = 0 ∧ s.finfo = 0

/-- A good end of a host program: no fault (R207). -/
abbrev State.Good (s : State) : Prop := s.fault = false

/-- The opcodes of the opcode map (R73, R77). -/
def opcodes : List Byte := [0x10, 0x11, 0x12, 0x13, 0x20, 0x30, 0x31, 0x40]

/-- A word that violates the must-be-zero fields of its opcode's format (R76). -/
abbrev ReservedFieldSet (cw : Word) : Prop :=
  cField cw ≠ 0 ∨
    (opcField cw ∈ ([0x10, 0x12, 0x13, 0x31] : List Byte) ∧ (aField cw ≠ 0 ∨ bField cw ≠ 0)) ∨
    (opcField cw ∈ ([0x11, 0x30] : List Byte) ∧ bField cw ≠ 0)

/-- An illegal command word (R77). -/
abbrev IllegalWord (cw : Word) : Prop := opcField cw ∉ opcodes ∨ ReservedFieldSet cw

/-- A DEC command, `DEC.UNK` included. -/
def isDec : Instr → Bool
  | .decBool | .decChar | .decI8 | .decU8 | .decI16 | .decU16 => true
  | .decI32 | .decU32 | .decI64 | .decU64 | .decF32 | .decF64 => true
  | .decUnk _ => true
  | .crcinit | .crcupd _ | .crccalc | .crcvfy | .xbits _ _ _ => false
  | .trim | .take _ | .push _ => false

/-- The element type that a DEC command decodes: its own, and I32 for `DEC.UNK` under `default_i32`; none for
`DEC.UNK` under `reject`, which decodes nothing, and for any other command (R125, R139). -/
def decodedType (p : Params) : Instr → Option EType
  | .decBool => some .bool
  | .decChar => some .char
  | .decI8 => some .i8
  | .decU8 => some .u8
  | .decI16 => some .i16
  | .decU16 => some .u16
  | .decI32 => some .i32
  | .decU32 => some .u32
  | .decI64 => some .i64
  | .decU64 => some .u64
  | .decF32 => some .f32
  | .decF64 => some .f64
  | .decUnk _ => if p.unknownEtype = .defaultI32 then some .i32 else none
  | .crcinit | .crcupd _ | .crccalc | .crcvfy | .xbits _ _ _ => none
  | .trim | .take _ | .push _ => none

/-- A command of the CRC16 unit. -/
def isCrc : Instr → Bool
  | .crcinit | .crcupd _ | .crccalc | .crcvfy => true
  | .xbits _ _ _ | .decBool | .decChar | .decI8 | .decU8 | .decI16 | .decU16 => false
  | .decI32 | .decU32 | .decI64 | .decU64 | .decF32 | .decF64 => false
  | .decUnk _ | .trim | .take _ | .push _ => false

/-- The frame that the next step of `s` takes out of RXBUF, in a list of its own; nothing if the next step is
no TAKE that answers OK (R153). -/
def takenByStep (s : State) : List (List Byte) :=
  match s.turns, s.hostLine with
  | .host :: _, c :: _ =>
    match decodeCommand c with
    | .legal (.take len) =>
      if s.fault = false ∧ len ≠ 0 ∧ len.toNat ≤ s.params.maxl ∧ len.toNat ≤ s.rxcnt then
        [s.rxbuf.take len.toNat]
      else []
    | _ => []
  | _, _ => []

/-- The state after `n` steps (or where the run stopped before) and the frames taken on the way, first one
first. -/
def history : Nat → State → State × List (List Byte)
  | 0, s => (s, [])
  | n + 1, s =>
    match step s with
    | .next t => ((history n t).1, takenByStep s ++ (history n t).2)
    | .fault _ => (s, [])
    | .refused _ => (s, [])

/-- A state whose coming turns hold no reset: reset is the one event that loses bytes (R230). -/
abbrev State.NoReset (s : State) : Prop := Agent.reset ∉ s.turns

/-- The bytes in order that TAKE can still give: those buffered, then those the RX agent has still to deliver
(R58, log 1). -/
abbrev State.stream (s : State) : List Byte := s.rxbuf ++ s.rxLine

/-- The stream has `n` bytes, and the RX agent's turns up to the last TAKE of the wait bring them in (R179,
log 12). -/
abbrev State.Arrives (s : State) (n : Nat) (waits : List Nat) : Prop :=
  waits ≠ [] ∧ n ≤ s.stream.length ∧ n ≤ s.rxcnt + waits.sum

/-- `d` is the double nearest to the integer `n`, and of two equally near ones the one with an even
fraction (R13). -/
def NearestEven (n : Int) (d : DWord) : Prop :=
  isFinite64 d = true ∧
    ∀ e : DWord, isFinite64 e = true →
      |f64Value d - n| ≤ |f64Value e - n| ∧
        (|f64Value e - n| = |f64Value d - n| → f64Value e ≠ f64Value d → d.getLsbD 0 = false)

/-- The integer that an element's pattern stands for, by its type (30_encoding.md R82); `none` for BOOL and the
floats. -/
def elementInt : EType → Nat → Option Int
  | .char, p | .u8, p | .u16, p | .u32, p | .u64, p => some p
  | .i8, p => some (sint 8 p)
  | .i16, p => some (sint 16 p)
  | .i32, p => some (sint 32 p)
  | .i64, p => some (sint 64 p)
  | .bool, _ | .f32, _ | .f64, _ => none

end Sys2Proof.Machine
end

