-- ==== Sys2Proof/Certificates/Slice0/Obligations.lean ====
section
/-! DEFINITION. What is claimed of the machine: one `def Obligations.<Name> : Prop` per statement, each citing the
rules of spec/ it formalises. A record update `{ s with … }` states the frame: every field it does not name is
unchanged. -/

open Sys2Proof Sys2Proof.Machine

/-! ## Steps, turns, reset -/

/-- A step in which the host's next command decodes to `i` is `exec` of `i`, after the turn and the command have
been taken off their lists (R57, R79; log 1). -/
def Obligations.StepRunsDecodedCommand : Prop :=
  ∀ (s : State) (c : Command) (cs : List Command) (ts : List Agent) (i : Instr),
    s.turns = .host :: ts → s.hostLine = c :: cs → decode (.command c) = .legal i →
      step s = exec i { s with turns := ts, hostLine := cs }

/-- A step in which the RX agent offers a byte is `exec` of `PUSH` of that byte, whichever of the 256 it is (R80;
log 1). -/
def Obligations.StepOffersReceivedByte : Prop :=
  ∀ (s : State) (b : Byte) (bs : List Byte) (ts : List Agent),
    s.turns = .rx :: ts → s.rxLine = b :: bs →
      decode (.rx b) = .legal (.push b) ∧ step s = exec (.push b) { s with turns := ts, rxLine := bs }

/-- The illegal words are those of R76 and R77, the all-zero and the all-ones word among them, and issuing one
raises F_ILLEGAL: it is no no-op and no other command. -/
def Obligations.IllegalWordRaisesFIllegal : Prop :=
  (∀ c : Command, (∃ why, decode (.command c) = .illegal why) ↔ IllegalWord c.cw) ∧
    IllegalWord 0x00000000 ∧ IllegalWord 0xFFFFFFFF ∧
    ∀ (s : State) (c : Command) (cs : List Command) (ts : List Agent),
      s.turns = .host :: ts → s.hostLine = c :: cs → IllegalWord c.cw → s.fault = false →
        step s = .next
          { s with turns := ts, hostLine := cs, fault := true, fcause := 1, finfo := c.cw, st := 7 }

/-- While FAULT is 1 every command, legal or not, changes no state at all, and a byte is still accepted while
there is room (R207). -/
def Obligations.FaultedBlockIgnoresCommandsAndAcceptsBytes : Prop :=
  (∀ (s : State) (c : Command) (cs : List Command) (ts : List Agent),
      s.fault = true → s.turns = .host :: ts → s.hostLine = c :: cs →
        step s = .next { s with turns := ts, hostLine := cs }) ∧
    ∀ (s : State) (b : Byte) (bs : List Byte) (ts : List Agent),
      s.fault = true → s.turns = .rx :: ts → s.rxLine = b :: bs →
        (∀ cap, s.params.bufCap = some cap → s.rxcnt < cap) →
          step s = .next { s with turns := ts, rxLine := bs, rxbuf := s.rxbuf ++ [b] }

/-- The reset transition gives every register and store the value of R41, from any state whatever (R41, R230). -/
def Obligations.ResetTransitionSetsResetValues : Prop :=
  ∀ (s : State) (ts : List Agent), s.turns = .reset :: ts →
    ∃ t, step s = .next t ∧
      t.res = 0x0000000000000000 ∧ t.raw = 0x0000000000000000 ∧ t.st = 0 ∧ t.crcacc = 0xFFFF ∧
      t.rxbuf = [] ∧ t.rxcnt = 0 ∧ t.frame = [] ∧ t.flen = 0 ∧ t.cur = 0 ∧ t.cend = 0 ∧
      t.fault = false ∧ t.fcause = 0 ∧ t.finfo = 0x00000000

/-- The reset state has the values of R41. -/
def Obligations.ResetStateHoldsResetValues : Prop :=
  State.reset.res = 0x0000000000000000 ∧ State.reset.raw = 0x0000000000000000 ∧ State.reset.st = 0 ∧
    State.reset.crcacc = 0xFFFF ∧ State.reset.rxbuf = [] ∧ State.reset.rxcnt = 0 ∧
    State.reset.frame = [] ∧ State.reset.flen = 0 ∧ State.reset.cur = 0 ∧ State.reset.cend = 0 ∧
    State.reset.fault = false ∧ State.reset.fcause = 0 ∧ State.reset.finfo = 0x00000000

/-- The reset state meets the invariant of R30 and that of R25, R32 and R33. -/
def Obligations.ResetStateMeetsTheInvariants : Prop :=
  State.reset.StoresOk ∧ State.reset.FaultRegsOk

/-- Every step keeps `CUR <= CEND <= FLEN <= MAXL`, `len(FRAME) = FLEN` and `RXCNT = len(RXBUF) <= BUF_CAP`, which
hold at reset (R30). The demands of R8 on the parameters are part of the invariant. -/
def Obligations.EveryStepKeepsTheStoreBounds : Prop :=
  State.reset.StoresOk ∧
    ∀ s t : State, s.StoresOk → step s = .next t →
      t.StoresOk ∧ t.flen.toNat = t.frame.length ∧ t.rxcnt = t.rxbuf.length

/-- Every step keeps the invariant of the fault registers: FCAUSE nonzero (and at most 4) exactly when FAULT is 1,
FINFO zero while FAULT is 0, ST seven exactly when FAULT is 1 and else at most 2 (R25, R32, R33). -/
def Obligations.EveryStepKeepsTheFaultRegisters : Prop :=
  ∀ s t : State, s.FaultRegsOk → step s = .next t → t.FaultRegsOk

/-- In a run without a reset a faulted block stays faulted with the first fault's record, takes no frame, changes no
register, and only receives bytes (R207, R210). -/
def Obligations.FaultIsStickyUntilReset : Prop :=
  ∀ (n : Nat) (s : State), s.fault = true → s.NoReset →
    (history n s).2 = [] ∧
      (history n s).1.fault = true ∧ (history n s).1.fcause = s.fcause ∧
      (history n s).1.finfo = s.finfo ∧ (history n s).1.st = s.st ∧
      (history n s).1.res = s.res ∧ (history n s).1.raw = s.raw ∧
      (history n s).1.crcacc = s.crcacc ∧ (history n s).1.frame = s.frame ∧
      (history n s).1.cur = s.cur ∧ (history n s).1.cend = s.cend ∧
      s.rxbuf <+: (history n s).1.rxbuf

/-- No step writes the parameters (R8). That they stand in State at all is the model's choice (log 4). -/
def Obligations.NoStepWritesTheParameters : Prop :=
  ∀ s t : State, step s = .next t → t.params = s.params

/-- Every instruction ends in a next state, one transition. Of the commands R242 says so. Of PUSH on a full buffer, for
which R152 enables no transition, it is the model's choice (log 3), as it is that nothing `exec` answers stops the
machine (log 2). -/
def Obligations.EveryInstructionTerminatesInOneTransition : Prop :=
  ∀ (i : Instr) (s : State), ∃ t, exec i s = .next t

/-- The model's choice (log 2): `step` stops exactly when no turn is left and never refuses; an agent with nothing to
do passes its turn and nothing else changes. -/
def Obligations.StepStopsOnlyWhenNoTurnIsLeft : Prop :=
  (∀ s : State, step s = .fault .runEnded ↔ s.turns = []) ∧
    (∀ (s : State) (r : Refusal), step s ≠ .refused r) ∧
    (∀ (s : State) (ts : List Agent), s.turns = .host :: ts → s.hostLine = [] →
      step s = .next { s with turns := ts }) ∧
    ∀ (s : State) (ts : List Agent), s.turns = .rx :: ts → s.rxLine = [] →
      step s = .next { s with turns := ts }

/-! ## Who writes what -/

/-- Over all 21 instructions: RES is written only by XBITS and DEC (R21), RAW only by DEC (R22), CRCACC only by the four
CRC commands (R26), RXBUF only by PUSH and TAKE (R27), FRAME only by TAKE (R28), CUR only by TAKE, TRIM and DEC, and
CEND only by TAKE and TRIM (R29); PUSH writes no ST, FAULT, FCAUSE or FINFO (R25, R151). -/
def Obligations.RegistersWrittenOnlyByTheirCommands : Prop :=
  ∀ (i : Instr) (s t : State), exec i s = .next t →
    (t.res ≠ s.res → isDec i = true ∨ ∃ off size v, i = .xbits off size v) ∧
      (t.raw ≠ s.raw → isDec i = true) ∧
      (t.crcacc ≠ s.crcacc → isCrc i = true) ∧
      (t.rxbuf ≠ s.rxbuf → (∃ len, i = .take len) ∨ ∃ b, i = .push b) ∧
      (t.frame ≠ s.frame → ∃ len, i = .take len) ∧
      (t.cur ≠ s.cur → isDec i = true ∨ i = .trim ∨ ∃ len, i = .take len) ∧
      (t.cend ≠ s.cend → i = .trim ∨ ∃ len, i = .take len) ∧
      (∀ b, i = .push b →
        t.st = s.st ∧ t.fault = s.fault ∧ t.fcause = s.fcause ∧ t.finfo = s.finfo)

/-- A command that faults has no partial effect: it writes FAULT, FCAUSE, FINFO (its command word) and ST and nothing
else, and the cause is one R202 gives that command, under the condition R202 gives it (R202, R206, R209). -/
def Obligations.FaultEntryIsPrecise : Prop :=
  ∀ (i : Instr) (s t : State), s.fault = false → exec i s = .next t → t.fault = true →
    t = { s with fault := true, fcause := t.fcause, finfo := encodeCW i, st := 7 } ∧
      ((t.fcause = 2 ∧ ∃ len : Half, i = .take len ∧ (len = 0 ∨ s.params.maxl < len.toNat)) ∨
        (t.fcause = 2 ∧ i = .trim ∧ s.frame.length < 2) ∨
        (t.fcause = 3 ∧ ∃ e : EType, decodedType s.params i = some e ∧
          (s.cend.toNat : Int) - s.cur.toNat < width s.params e) ∨
        (t.fcause = 4 ∧ (∃ code, i = .decUnk code) ∧ s.params.unknownEtype = .reject))

/-! ## Encoding -/

/-- Decoding what the encoder writes gives the instruction back, for every well-formed instruction and every value of
its operands (R70 to R74, R79, R80). -/
def Obligations.DecodeInvertsEncode : Prop :=
  ∀ i : Instr, i.wf = true → decode (encode i) = .legal i

/-- A legal word is the encoding of the one instruction it decodes to, so that no bit of it is dropped. The value of
XBITS is the bundle's OPV, and the bundle is then the encoding; every other command decodes the same whatever OPV is
(R70, R74, R76, R79). -/
def Obligations.EncodeInvertsDecode : Prop :=
  ∀ (c : Command) (i : Instr), decode (.command c) = .legal i →
    i.wf = true ∧ encodeCW i = c.cw ∧
      (∀ off size v, i = .xbits off size v → v = c.opv ∧ encode i = .command c) ∧
      ((∀ off size v, i ≠ .xbits off size v) →
        encode i = .command ⟨c.cw, 0⟩ ∧ ∀ opv : DWord, decode (.command ⟨c.cw, opv⟩) = .legal i)

/-- The sample words of the spec decode as it prints (30_encoding.md R79; 95_test_vectors.md section 3). -/
def Obligations.SampleWordsDecodeAsPrinted : Prop :=
  decode (.command ⟨0x00000010, 0⟩) = .legal .crcinit ∧
    decode (.command ⟨0x00005A11, 0⟩) = .legal (.crcupd 0x5A) ∧
    decode (.command ⟨0x00000013, 0⟩) = .legal .crcvfy ∧
    decode (.command ⟨0x00030220, 0xB4⟩) = .legal (.xbits 2 3 0xB4) ∧
    decode (.command ⟨0x00000B30, 0⟩) = .legal .decF64 ∧
    decode (.command ⟨0x00000C30, 0⟩) = .legal (.decUnk 12) ∧
    decode (.command ⟨0x00000031, 0⟩) = .legal .trim ∧
    decode (.command ⟨0x00010040, 0⟩) = .legal (.take 256) ∧
    decode (.command ⟨0x00000032, 0⟩) = .illegal .unknownOpcode ∧
    decode (.command ⟨0x80000010, 0⟩) = .illegal .reservedC ∧
    decode (.command ⟨0x00000112, 0⟩) = .illegal .reservedA

/-! ## CRC16 unit -/

/-- The table by its recurrence is the table the spec prints, all 256 entries (R100). -/
def Obligations.CrcTableMatchesThePrintedOne : Prop :=
  crcTabPrinted.length = 256 ∧
    (∀ c : Half, crcShift c = if c.getLsbD 0 = true then (c >>> 1) ^^^ 0xA001 else c >>> 1) ∧
    (∀ i : Byte, crcTab i =
      crcShift (crcShift (crcShift (crcShift (crcShift (crcShift (crcShift (crcShift
        (i.zeroExtend 16))))))))) ∧
    ∀ i : Fin 256, crcTabPrinted[i.val]? = some (crcTab (BitVec.ofNat 8 i.val))

/-- The table form of the byte step and the bitwise form agree for all accumulators and bytes (R101). -/
def Obligations.ByteStepAgreesWithBitwiseForm : Prop :=
  ∀ (c : Half) (b : Byte),
    crcStep c b = (c >>> 8) ^^^ crcTab (BitVec.ofNat 8 ((c ^^^ b.zeroExtend 16) &&& 0xFF).toNat) ∧
      crcStep c b = crcShifts 8 (c ^^^ b.zeroExtend 16)

/-- The one complete frame OSC prints checks against the polynomial, the seed, the update formula and the trailer's
byte order (R108). -/
def Obligations.StopFrameAudit : Prop :=
  crcStep 0xFFFF 0x01 = 0x807E ∧ crcStep 0x807E 0x18 = 0x2A00 ∧ crc16 [0x01, 0x18] = 0x2A00 ∧
    trailer [0x01, 0x18] = [0x00, 0x2A] ∧ verify [0x01, 0x18, 0x00, 0x2A] = true

/-- `verify` by its own formula; fewer than two bytes are false, and of the two-byte strings only `FF FF` is
true (R103). -/
def Obligations.VerifyComparesBodyWithTrailer : Prop :=
  (∀ s : List Byte, s.length < 2 → verify s = false) ∧
    (∀ (body : List Byte) (lo hi : Byte),
      verify (body ++ [lo, hi]) = true ↔ (crc16 body).toNat = lo.toNat + 256 * hi.toNat) ∧
    ∀ x y : Byte, verify [x, y] = true ↔ x = 0xFF ∧ y = 0xFF

/-- Round trip: a byte string with its own trailer verifies (R105 (a)). -/
def Obligations.VerifyAcceptsOwnTrailer : Prop :=
  ∀ s : List Byte, verify (s ++ trailer s) = true

/-- Residue: a string of at least two bytes verifies exactly when its CRC is zero, because for every accumulator one
byte pair alone steps it to zero (R105 (b)). -/
def Obligations.ResidueIsZeroExactlyWhenVerified : Prop :=
  (∀ s : List Byte, 2 ≤ s.length → (verify s = true ↔ crc16 s = 0)) ∧
    ∀ (c : Half) (x y : Byte),
      crcStep (crcStep c x) y = 0 ↔ x = c.extractLsb' 0 8 ∧ y = c.extractLsb' 8 8

/-- Flipping any single bit of a string that verifies, in the body or in the trailer, makes it fail (R105 (c)). -/
def Obligations.SingleBitFlipIsDetected : Prop :=
  ∀ (s : List Byte) (i k : Nat) (hi : i < s.length), k < 8 → verify s = true →
    verify (s.set i (s[i] ^^^ ((1 : Byte) <<< k))) = false

/-- The CRC of a concatenation is the byte step folded over the second part from the CRC of the first (R105 (d)). -/
def Obligations.CrcOfConcatenationIsIncremental : Prop :=
  ∀ s t : List Byte, crc16 (s ++ t) = t.foldl crcStep (crc16 s)

/-- CRCINIT (R106). -/
def Obligations.CrcinitSeedsTheAccumulator : Prop :=
  (∀ opv : DWord, decode (.command ⟨0x00000010, opv⟩) = .legal .crcinit) ∧
    ∀ s : State, s.fault = false → exec .crcinit s = .next { s with crcacc := 0xFFFF, st := 0 }

/-- CRCUPD (R107). -/
def Obligations.CrcupdFeedsOneByte : Prop :=
  (∀ (b : Byte) (opv : DWord),
      decode (.command ⟨0x00000011 ||| (b.zeroExtend 32 <<< 8), opv⟩) = .legal (.crcupd b)) ∧
    ∀ (b : Byte) (s : State), s.fault = false →
      exec (.crcupd b) s = .next { s with crcacc := crcStep s.crcacc b, st := 0 }

/-- CRCCALC (R109). -/
def Obligations.CrccalcCoversTheWholeFrame : Prop :=
  (∀ opv : DWord, decode (.command ⟨0x00000012, opv⟩) = .legal .crccalc) ∧
    ∀ s : State, s.fault = false → exec .crccalc s = .next { s with crcacc := crc16 s.frame, st := 0 }

/-- CRCVFY (R110): CRCBAD with CRCACC unchanged below two bytes, else the CRC of the body in CRCACC and the comparison
with the last two bytes in ST, which is OK exactly when `verify` holds. -/
def Obligations.CrcvfyComparesAndRecords : Prop :=
  (∀ opv : DWord, decode (.command ⟨0x00000013, opv⟩) = .legal .crcvfy) ∧
    ∀ s : State, s.fault = false →
      (s.frame.length < 2 → exec .crcvfy s = .next { s with st := 2 } ∧ verify s.frame = false) ∧
        (2 ≤ s.frame.length →
          exec .crcvfy s = .next
            { s with
              crcacc := crc16 (s.frame.take (s.frame.length - 2))
              st :=
                if (crc16 (s.frame.take (s.frame.length - 2))).toNat =
                    (s.frame.getD (s.frame.length - 2) 0).toNat +
                      256 * (s.frame.getD (s.frame.length - 1) 0).toNat then 0 else 2 } ∧
            (verify s.frame = true ↔
              (crc16 (s.frame.take (s.frame.length - 2))).toNat =
                (s.frame.getD (s.frame.length - 2) 0).toNat +
                  256 * (s.frame.getD (s.frame.length - 1) 0).toNat))

/-- On a frame of at least two bytes CRCVFY answers OK exactly when CRCCALC leaves zero in CRCACC (R105 (b), R109,
R110). -/
def Obligations.CrcvfyOkExactlyWhenCrccalcIsZero : Prop :=
  ∀ s : State, s.fault = false → 2 ≤ s.frame.length →
    ∃ t u, exec .crcvfy s = .next t ∧ exec .crccalc s = .next u ∧ (t.st = 0 ↔ u.crcacc = 0)

/-- Sequence TRAILER, whatever pushes fall between its commands: CRCINIT and a CRCUPD for each byte leave `crc16(m)` in
CRCACC, and nothing else changed but ST and what the pushes added to RXBUF; the host's frame is the message and its
trailer. Without pushes RXBUF is as it was (R60, R176; the pushes as an argument: log 12). -/
def Obligations.TrailerSequenceFinishesAFrame : Prop :=
  ∀ (m : List Byte) (gaps : Gaps) (s : State), s.fault = false →
    ∃ t, trailerSequence m gaps s = (t, m ++ trailer m) ∧ t.stream = s.stream ∧ s.rxbuf <+: t.rxbuf ∧
      t = { s with crcacc := crc16 m, st := 0, rxbuf := t.rxbuf, rxLine := t.rxLine } ∧
      ((∀ k, gaps k = 0) → t = { s with crcacc := crc16 m, st := 0 })

/-! ## Bitfield extractor -/

/-- XBITS (R122): RES and ST alone are written, RES is `extractBits` without losing a bit, and bit `k` of RES is bit
`off + k` of the operand inside the field and 0 outside it. -/
def Obligations.XbitsCutsTheField : Prop :=
  (∀ (off size : Byte) (opv : DWord),
      decode (.command
        ⟨0x00000020 ||| (off.zeroExtend 32 <<< 8) ||| (size.zeroExtend 32 <<< 16), opv⟩) =
          .legal (.xbits off size opv)) ∧
    ∀ (off size : Byte) (v : DWord) (s : State), s.fault = false →
      ∃ r : DWord, exec (.xbits off size v) s = .next { s with res := r, st := 0 } ∧
        r.toNat = extractBits v.toNat off.toNat size.toNat ∧
        ∀ k < 64, r.getLsbD k =
          if size = 0 then v.getLsbD k else (decide (k < size.toNat) && v.getLsbD (off.toNat + k))

/-- `extractBits` and the consequences R121 draws for 64-bit values: nothing wraps at a width boundary. -/
def Obligations.ExtractBitsNeverWraps : Prop :=
  ∀ v off size : Nat,
    (size = 0 → extractBits v off size = v) ∧
      (size ≠ 0 → extractBits v off size = v / 2 ^ off % 2 ^ size) ∧
      (v < 2 ^ 64 →
        (64 ≤ off → size ≠ 0 → extractBits v off size = 0) ∧
          (64 ≤ size → extractBits v off size = v / 2 ^ off) ∧
          (64 < off + size → size ≠ 0 → extractBits v off size = v / 2 ^ off) ∧
          extractBits v off size < 2 ^ 64)

/-! ## Primitive-type decoder -/

/-- The twelve DEC commands complete when the window holds `width(t)` bytes: RAW is the raw pattern, RES its
conversion, CUR advances by exactly the width, ST is OK, and nothing else changes but the count of free values, which
a binary32 NaN alone advances (R125, R126, R127 to R138; the count is the model's own, log 5). -/
def Obligations.DecReadsTheElementAtTheCursor : Prop :=
  ∀ r ∈ ([(.decBool, .bool, 0x00000030), (.decChar, .char, 0x00000130), (.decI8, .i8, 0x00000230),
      (.decU8, .u8, 0x00000330), (.decI16, .i16, 0x00000430), (.decU16, .u16, 0x00000530),
      (.decI32, .i32, 0x00000630), (.decU32, .u32, 0x00000730), (.decI64, .i64, 0x00000830),
      (.decU64, .u64, 0x00000930), (.decF32, .f32, 0x00000A30), (.decF64, .f64, 0x00000B30)] :
      List (Instr × EType × Word)),
    (∀ opv : DWord, decode (.command ⟨r.2.2, opv⟩) = .legal r.1) ∧
      ∀ (s : State) (w p : Nat), s.fault = false → w = width s.params r.2.1 →
        p = le ((s.frame.drop s.cur.toNat).take w) → (w : Int) ≤ (s.cend.toNat : Int) - s.cur.toNat →
          exec r.1 s = .next
            { s with
              raw := BitVec.ofNat 64 p
              res := conv r.2.1 p (Config.nanDraw s.nanDraws)
              cur := s.cur + BitVec.ofNat 16 w
              st := 0
              nanDraws :=
                if r.2.1 = .f32 ∧ isNaN32 (BitVec.ofNat 32 p) = true then s.nanDraws + 1 else s.nanDraws } ∧
          (s.cur + BitVec.ofNat 16 w).toNat = s.cur.toNat + w

/-- The twelve DEC commands fault F_UNDERRUN when fewer than `width(t)` bytes are left: the fault registers are written
with the command word and nothing else changes, so nothing is zero-filled and the cursor does not move (R123, R126,
R202, R206). -/
def Obligations.DecUnderrunChangesNothingElse : Prop :=
  ∀ r ∈ ([(.decBool, .bool, 0x00000030), (.decChar, .char, 0x00000130), (.decI8, .i8, 0x00000230),
      (.decU8, .u8, 0x00000330), (.decI16, .i16, 0x00000430), (.decU16, .u16, 0x00000530),
      (.decI32, .i32, 0x00000630), (.decU32, .u32, 0x00000730), (.decI64, .i64, 0x00000830),
      (.decU64, .u64, 0x00000930), (.decF32, .f32, 0x00000A30), (.decF64, .f64, 0x00000B30)] :
      List (Instr × EType × Word)),
    ∀ s : State, s.fault = false →
      (s.cend.toNat : Int) - s.cur.toNat < width s.params r.2.1 →
        exec r.1 s = .next { s with fault := true, fcause := 3, finfo := r.2.2, st := 7 }

/-- DEC.BOOL: 1.0 for every nonzero byte, 0.0 for zero, and RAW keeps the byte (R127). -/
def Obligations.DecBoolIsOneForEveryNonzeroByte : Prop :=
  ∀ (s : State) (b : Byte), s.fault = false → s.cur.toNat < s.cend.toNat →
    s.frame[s.cur.toNat]? = some b →
      exec .decBool s = .next
        { s with
          raw := b.zeroExtend 64
          res := if b = 0 then 0x0000000000000000 else 0x3FF0000000000000
          cur := s.cur + 1
          st := 0 }

/-- Every decode of an integer type of at most 32 bits is exact: RES is a finite double and its value is the element's
number, two's complement for the signed types (R82, R125, R142 (b)). -/
def Obligations.IntegerDecodesUpTo32BitsAreExact : Prop :=
  ∀ r ∈ ([(.decChar, .char), (.decI8, .i8), (.decU8, .u8), (.decI16, .i16), (.decU16, .u16),
      (.decI32, .i32), (.decU32, .u32)] : List (Instr × EType)),
    ∀ (s : State) (w : Nat), s.fault = false → w = width s.params r.2 →
      (w : Int) ≤ (s.cend.toNat : Int) - s.cur.toNat →
        ∃ t n, exec r.1 s = .next t ∧
          elementInt r.2 (le ((s.frame.drop s.cur.toNat).take w)) = some n ∧
          isFinite64 t.res = true ∧ f64Value t.res = (n : ℚ) ∧ (n = 0 → t.res = 0)

/-- `f64_of_int` is the double nearest to the integer, ties to the even fraction, for every integer the block can
convert, and integer 0 is +0.0 (R13). -/
def Obligations.F64OfIntRoundsToNearestEven : Prop :=
  f64OfInt 0 = 0x0000000000000000 ∧
    ∀ n : Int, -(2 ^ 64 : Int) ≤ n → n ≤ 2 ^ 64 → NearestEven n (f64OfInt n)

/-- DEC.I64 and DEC.U64 widen to the nearest double, ties to even, and RAW keeps the exact 64 bits (R125, R135, R136,
R142 (b)). -/
def Obligations.WideIntegerDecodesRoundToNearestEven : Prop :=
  ∀ r ∈ ([(.decI64, .i64), (.decU64, .u64)] : List (Instr × EType)),
    ∀ s : State, s.fault = false → (8 : Int) ≤ (s.cend.toNat : Int) - s.cur.toNat →
      ∃ t n, exec r.1 s = .next t ∧
        elementInt r.2 (le ((s.frame.drop s.cur.toNat).take 8)) = some n ∧ NearestEven n t.res ∧
        t.raw.toNat = le ((s.frame.drop s.cur.toNat).take 8)

/-- DEC.F32 (R137, R142 (c)): every finite binary32 is widened exactly with its sign kept (of zero too), an infinity to
the infinity of its sign, and a NaN to some NaN; RAW keeps the 32 bits. -/
def Obligations.DecF32WidensExactly : Prop :=
  ∀ (s : State) (p : Word), s.fault = false → (4 : Int) ≤ (s.cend.toNat : Int) - s.cur.toNat →
    p = BitVec.ofNat 32 (le ((s.frame.drop s.cur.toNat).take 4)) →
      ∃ t, exec .decF32 s = .next t ∧ t.raw = p.zeroExtend 64 ∧
        (p.extractLsb' 23 8 ≠ 255 →
          isFinite64 t.res = true ∧ f64Value t.res = f32Value p ∧ t.res.getLsbD 63 = p.getLsbD 31) ∧
        (p.extractLsb' 23 8 = 255 → p.extractLsb' 0 23 = 0 →
          t.res = if p.getLsbD 31 = true then 0xFFF0000000000000 else 0x7FF0000000000000) ∧
        (isNaN32 p = true → isNaN t.res = true)

/-- DEC.F64 returns the 64 bits unchanged, byte `k` of the element in bits `8k+7:8k` (R50, R138). -/
def Obligations.DecF64IsTheIdentity : Prop :=
  ∀ s : State, s.fault = false → s.cend.toNat ≤ s.frame.length →
    (8 : Int) ≤ (s.cend.toNat : Int) - s.cur.toNat →
      ∃ t, exec .decF64 s = .next t ∧ t.res = t.raw ∧
        ∀ k < 8, s.frame[s.cur.toNat + k]? = some (t.res.extractLsb' (8 * k) 8)

/-- The same four bytes as one U32, as two U16 and as four U8 give the same number (R51). -/
def Obligations.MixedWidthDecodesAgree : Prop :=
  ∀ s : State, s.fault = false → (4 : Int) ≤ (s.cend.toNat : Int) - s.cur.toNat →
    (issue .decU32 s).raw.toNat =
        (issue .decU16 s).raw.toNat + 65536 * (issue .decU16 (issue .decU16 s)).raw.toNat ∧
      (issue .decU32 s).raw.toNat =
        (issue .decU8 s).raw.toNat + 256 * (issue .decU8 (issue .decU8 s)).raw.toNat +
          65536 * (issue .decU8 (issue .decU8 (issue .decU8 s))).raw.toNat +
          16777216 * (issue .decU8 (issue .decU8 (issue .decU8 (issue .decU8 s)))).raw.toNat

/-- DEC of a type code 12..255 (R139): under `reject` it faults F_ETYPE whatever the window holds; under `default_i32` it
behaves exactly as DEC.I32, but that FINFO of an underrun holds its own command word. -/
def Obligations.UnknownTypeFollowsItsParameter : Prop :=
  ∀ code : Byte, 12 ≤ code.toNat →
    (∀ opv : DWord,
        decode (.command ⟨0x00000030 ||| (code.zeroExtend 32 <<< 8), opv⟩) = .legal (.decUnk code)) ∧
      ∀ s : State, s.fault = false →
        (s.params.unknownEtype = .reject →
          exec (.decUnk code) s = .next
            { s with
              fault := true
              fcause := 4
              finfo := 0x00000030 ||| (code.zeroExtend 32 <<< 8)
              st := 7 }) ∧
        (s.params.unknownEtype = .defaultI32 → (4 : Int) ≤ (s.cend.toNat : Int) - s.cur.toNat →
          exec (.decUnk code) s = exec .decI32 s ∧
            exec (.decUnk code) s = .next
              { s with
                raw := BitVec.ofNat 64 (le ((s.frame.drop s.cur.toNat).take 4))
                res := f64OfInt (sint 32 (le ((s.frame.drop s.cur.toNat).take 4)))
                cur := s.cur + 4
                st := 0 }) ∧
        (s.params.unknownEtype = .defaultI32 → (s.cend.toNat : Int) - s.cur.toNat < 4 →
          exec (.decUnk code) s = .next
            { s with
              fault := true
              fcause := 3
              finfo := 0x00000030 ||| (code.zeroExtend 32 <<< 8)
              st := 7 })

/-- TRIM (R140): the window over the frame without its trailer, rewound; F_LEN on a frame shorter than two bytes. -/
def Obligations.TrimSelectsThePayload : Prop :=
  (∀ opv : DWord, decode (.command ⟨0x00000031, opv⟩) = .legal .trim) ∧
    ∀ s : State, s.fault = false →
      (2 ≤ s.frame.length →
        exec .trim s = .next { s with cur := 0, cend := s.flen - 2, st := 0 }) ∧
        (s.frame.length < 2 →
          exec .trim s = .next { s with fault := true, fcause := 2, finfo := 0x00000031, st := 7 })

/-! ## Frame assembler -/

/-- TAKE (R153): F_LEN for a length of 0 or above MAXL, whatever is buffered; INSUFFICIENT, with ST alone written, when
fewer bytes are buffered; else the oldest `L` bytes are the frame, the rest stay in order, and the window is the whole
frame. -/
def Obligations.TakeExtractsOneFrame : Prop :=
  (∀ (len : Half) (opv : DWord),
      decode (.command ⟨0x00000040 ||| (len.zeroExtend 32 <<< 8), opv⟩) = .legal (.take len)) ∧
    ∀ (len : Half) (s : State), s.fault = false →
      ((len = 0 ∨ s.params.maxl < len.toNat) →
        exec (.take len) s = .next
          { s with
            fault := true
            fcause := 2
            finfo := 0x00000040 ||| (len.zeroExtend 32 <<< 8)
            st := 7 }) ∧
      (len ≠ 0 → len.toNat ≤ s.params.maxl → s.rxbuf.length < len.toNat →
        exec (.take len) s = .next { s with st := 1 }) ∧
      (len ≠ 0 → len.toNat ≤ s.params.maxl → len.toNat ≤ s.rxbuf.length →
        exec (.take len) s = .next
          { s with
            frame := s.rxbuf.take len.toNat
            rxbuf := s.rxbuf.drop len.toNat
            cur := 0
            cend := len
            st := 0 } ∧
        (s.rxbuf.take len.toNat).length = len.toNat)

/-- PUSH (R151): while `RXCNT < BUF_CAP` (always, if unbounded) the byte is appended and nothing else changes, faulted or
not. -/
def Obligations.PushAppendsTheByte : Prop :=
  ∀ (b : Byte) (s : State), (∀ cap, s.params.bufCap = some cap → s.rxcnt < cap) →
    exec (.push b) s = .next { s with rxbuf := s.rxbuf ++ [b] }

/-- A byte offered to a full buffer leaves the block's state as it was and stays with the RX agent, first in its line, to
be offered again (R152). That the attempt is a step at all is the model's choice (log 3). -/
def Obligations.FullBufferLeavesTheByteWithItsAgent : Prop :=
  (∀ (b : Byte) (s : State) (cap : Nat), s.params.bufCap = some cap → cap ≤ s.rxcnt →
      exec (.push b) s = .next { s with rxLine := b :: s.rxLine }) ∧
    ∀ (s : State) (b : Byte) (bs : List Byte) (ts : List Agent) (cap : Nat),
      s.params.bufCap = some cap → cap ≤ s.rxcnt → s.turns = .rx :: ts → s.rxLine = b :: bs →
        step s = .next { s with turns := ts }

/-- Because `MAXL <= BUF_CAP`, a full buffer answers every legal TAKE with a frame: it never deadlocks a host that keeps
asking (R152). -/
def Obligations.FullBufferServesEveryLegalTake : Prop :=
  ∀ (s : State) (cap : Nat) (len : Half), s.fault = false → s.params.Wf →
    s.params.bufCap = some cap → s.rxcnt = cap → len ≠ 0 → len.toNat ≤ s.params.maxl →
      ∃ t, exec (.take len) s = .next t ∧ t.st = 0 ∧ t.frame = s.rxbuf.take len.toNat ∧ t.rxcnt < cap

/-- Conservation and order: in every run without a reset, the frames taken, then what is buffered, then what the RX
agent has still to deliver are, byte for byte and in order, what was buffered and to be delivered at its start; and
FRAME is the last frame taken (R58, R59, R155 (a)). -/
def Obligations.RunsConserveEveryByteInOrder : Prop :=
  ∀ (n : Nat) (s : State), s.NoReset →
    (history n s).2.flatten ++ (history n s).1.rxbuf ++ (history n s).1.rxLine =
        s.rxbuf ++ s.rxLine ∧
      (history n s).1.frame = ((history n s).2.getLast?).getD s.frame

/-- The frames do not depend on the interleaving: two runs over the same stream of bytes, whatever their turns and their
commands, whose successful TAKEs had the same lengths, took the same frames (R60, R155 (b)). That the bytes still to
be pushed and the turns stand in State, in `rxLine` and `turns`, is the model's choice (log 1). -/
def Obligations.FramesDoNotDependOnTheInterleaving : Prop :=
  ∀ (n m : Nat) (s u : State), s.NoReset → u.NoReset →
    s.rxbuf ++ s.rxLine = u.rxbuf ++ u.rxLine →
      (history n s).2.map List.length = (history m u).2.map List.length →
        (history n s).2 = (history m u).2

/-- A frame of `L` bytes that arrives in two underlying reads: after the first, TAKE answers INSUFFICIENT and consumes
nothing; after the second it gives exactly the `L` bytes in arrival order and leaves nothing buffered (R154 (2)). -/
def Obligations.SplitFrameArrivesWhole : Prop :=
  ∀ (s : State) (xs ys : List Byte) (len : Half), s.fault = false → s.params.Wf → s.rxbuf = [] →
    xs.length < len.toNat → xs.length + ys.length = len.toNat → len.toNat ≤ s.params.maxl →
      issueAll (rxRun xs ++ [.take len]) s = { s with rxbuf := xs, st := 1 } ∧
        issueAll (rxRun xs ++ [.take len] ++ rxRun ys ++ [.take len]) s =
          { s with rxbuf := [], frame := xs ++ ys, cur := 0, cend := len, st := 0 }

/-! ## The host's sequences over the block -/

/-- CAPTURE-FRAME on a frame that arrives within the wait and verifies emits one sample per channel, in declared order,
uses the payload exactly and cannot fault. A channel's bytes follow those of the channels before it without padding.
Its sample is their conversion, where its bit size is 0 or its type a float; else it is the unsigned field that its
bit offset and size cut from their raw pattern, a nonzero test for BOOL and widened for the others (R83 (c), R172,
R173). All this whatever pushes fall before and between the commands (R60); the wait as a list of RX
turns is the model's (log 12). -/
def Obligations.CaptureDecodesAVerifiedFrame : Prop :=
  ∀ (s : State) (chs : List Channel) (waits : List Nat) (gaps : Gaps), s.fault = false → s.params.Wf →
    frameLength s.params chs ≤ s.params.maxl → s.Arrives (frameLength s.params chs) waits →
    verify (s.stream.take (frameLength s.params chs)) = true →
      ∃ t v, captureFrame chs waits gaps s = (t, .emitted v) ∧ v.length = chs.length ∧ t.Good ∧ t.st = 0 ∧
        t.frame = s.stream.take (frameLength s.params chs) ∧
        t.stream = s.stream.drop (frameLength s.params chs) ∧
        t.cur.toNat = payloadLength s.params chs ∧ t.cend.toNat = payloadLength s.params chs ∧
        ∀ (k : Nat) (ch : Channel) (p f : Nat), chs[k]? = some ch →
          p = le ((t.frame.drop (payloadLength s.params (chs.take k))).take (width s.params ch.etype)) →
          f = p / 2 ^ ch.bitOffset.toNat % 2 ^ ch.bitSize.toNat →
            (ch.bitSize = 0 ∨ ch.etype = .f32 ∨ ch.etype = .f64 →
              ∃ d, v[k]? = some (conv ch.etype p d)) ∧
            (ch.bitSize ≠ 0 → ch.etype = .bool →
              v[k]? = some (if f = 0 then 0x0000000000000000 else 0x3FF0000000000000)) ∧
            (ch.bitSize ≠ 0 → ch.etype ≠ .bool → ch.etype ≠ .f32 → ch.etype ≠ .f64 →
              v[k]? = some (f64OfInt f))

/-- CAPTURE-FRAME on a frame that arrives within the wait and does not verify emits the sentinel, a NaN, in every slot;
nothing of the frame is decoded, RES and RAW keep their values, and nothing faults, whatever pushes fall before and between the
commands (R60, R172, R174; the wait: log 12). -/
def Obligations.CaptureOfABadFrameEmitsSentinels : Prop :=
  isNaN 0x7FF8000000000000 = true ∧
    ∀ (s : State) (chs : List Channel) (waits : List Nat) (gaps : Gaps), s.fault = false → s.params.Wf →
      frameLength s.params chs ≤ s.params.maxl → s.Arrives (frameLength s.params chs) waits →
      verify (s.stream.take (frameLength s.params chs)) = false →
        ∃ t, captureFrame chs waits gaps s =
            (t, .emitted (List.replicate chs.length 0x7FF8000000000000)) ∧
          t.Good ∧ t.st = 2 ∧ t.res = s.res ∧ t.raw = s.raw ∧
          t.frame = s.stream.take (frameLength s.params chs) ∧
          t.stream = s.stream.drop (frameLength s.params chs)

/-- POLLTAKE repeats TAKE while it answers INSUFFICIENT, and CAPTURE-FRAME with it. Where the frame arrives within the
wait, POLLTAKE ends with exactly that frame, whatever the rounds before. Where it does not, the host stops, emits
nothing and has lost no byte: buffered bytes stay buffered and only pushes and ST changed (R85, R172, R179). A frame
length above MAXL faults the TAKE (R171). The model's choices are that the wait is a list of RX turns and the host
stops at its end (log 12), which TAKE is issued for a length above 65535 (log 16), and that a sequence whose TAKE
faults ends as `faulted` with nothing emitted (log 17). -/
def Obligations.CaptureWaitsForTheWholeFrame : Prop :=
  (∀ (s : State) (len : Half) (waits : List Nat), s.fault = false → s.params.Wf → len ≠ 0 →
      len.toNat ≤ s.params.maxl → s.Arrives len.toNat waits →
        ∃ t, pollTake len waits s = (t, .taken) ∧ t.frame = s.stream.take len.toNat ∧
          t.stream = s.stream.drop len.toNat ∧
          t = { s with
            frame := t.frame, rxbuf := t.rxbuf, rxLine := t.rxLine, cur := 0, cend := len, st := 0 }) ∧
    (∀ (s : State) (chs : List Channel) (waits : List Nat) (gaps : Gaps), s.fault = false → s.params.Wf →
      frameLength s.params chs ≤ s.params.maxl → ¬ s.Arrives (frameLength s.params chs) waits →
        ∃ t, captureFrame chs waits gaps s = (t, .stopped) ∧ t.stream = s.stream ∧ s.rxbuf <+: t.rxbuf ∧
          t = { s with
            rxbuf := t.rxbuf, rxLine := t.rxLine, st := if waits = [] then s.st else 1 }) ∧
    ∀ (s : State) (chs : List Channel) (k : Nat) (waits : List Nat) (gaps : Gaps), s.fault = false →
      s.params.maxl < frameLength s.params chs →
        ∃ t, captureFrame chs (k :: waits) gaps s = (t, .faulted) ∧ t.stream = s.stream ∧
          t = { s with
            rxbuf := t.rxbuf, rxLine := t.rxLine, fault := true, fcause := 2, finfo := t.finfo, st := 7 }

/-- REPLY (R175): a reply that arrives within the wait resolves the command exactly when it verifies, and else the
command fails with a CRC error, as every one-byte reply does; a reply that does not arrive leaves the wait to the
host's timer and every byte in the block or on its way; a length outside 1..MAXL faults the TAKE (R171). All this whatever pushes fall before and between the
commands (R60). The model's
choices are that all `L` bytes are handed over, trailer included, and the wait is a list of RX turns (log 12), which
TAKE is issued for a length above 65535 (log 16), and that a faulted block fails the command (log 17). -/
def Obligations.ReplyIsResolvedExactlyWhenItVerifies : Prop :=
  (∀ (s : State) (len : Nat) (waits : List Nat) (gaps : Gaps), s.fault = false → s.params.Wf → len ≠ 0 →
      len ≤ s.params.maxl → s.Arrives len waits →
        (replySequence len waits gaps s).2 =
            (if verify (s.stream.take len) = true then .resolved (s.stream.take len) else .crcFailure) ∧
          (len < 2 → (replySequence len waits gaps s).2 = .crcFailure)) ∧
    (∀ (s : State) (len : Nat) (waits : List Nat) (gaps : Gaps), s.fault = false → s.params.Wf → len ≠ 0 →
      len ≤ s.params.maxl → ¬ s.Arrives len waits →
        (replySequence len waits gaps s).2 = .stopped ∧ (replySequence len waits gaps s).1.stream = s.stream) ∧
    ∀ (s : State) (len k : Nat) (waits : List Nat) (gaps : Gaps), s.fault = false →
      (len = 0 ∨ s.params.maxl < len) →
        (replySequence len (k :: waits) gaps s).2 = .blockFault ∧
          (replySequence len (k :: waits) gaps s).1.fault = true ∧
          (replySequence len (k :: waits) gaps s).1.fcause = 2

/-- The requests a host sends. The start request is `01 17`, then for each channel in declaration order its address, the
least significant byte first, and its byte size, then the trailer of all that: `2 + 5n + 2` bytes that verify, and
`01 17 40 2E` without channels. The stop request is `01 18` with its trailer (R83 (a), (b), R177, R178). -/
def Obligations.RequestsCarryTheirTrailers : Prop :=
  (∀ (p : Params) (chs : List Channel),
      verify (startRequest p chs) = true ∧ (startRequest p chs).length = 2 + 5 * chs.length + 2 ∧
        startRequest p chs = (startRequest p chs).take (2 + 5 * chs.length) ++
          trailer ((startRequest p chs).take (2 + 5 * chs.length)) ∧
        (startRequest p chs).take 2 = [0x01, 0x17] ∧
        ∀ (k : Nat) (ch : Channel), chs[k]? = some ch →
          (∀ j < 4, (startRequest p chs)[2 + 5 * k + j]? = some (ch.addr.extractLsb' (8 * j) 8)) ∧
            ∃ size : Byte, (startRequest p chs)[2 + 5 * k + 4]? = some size ∧
              size.toNat = width p ch.etype) ∧
    (∀ p : Params, startRequest p [] = [0x01, 0x17, 0x40, 0x2E]) ∧
    stopRequest = [0x01, 0x18] ++ trailer [0x01, 0x18]

/-! ## The read ports -/

/-- The observation port reads each register at its index, zero-extended; from index 9 on the value is whatever the
argument says (R38; that the unspecified value is an argument is the model's choice, log 9). -/
def Obligations.ObservationPortReadsItsRegisters : Prop :=
  ∀ (s : State) (free : Nat),
    s.observe 0 free = s.res.toNat ∧ s.observe 1 free = s.raw.toNat ∧
      s.observe 2 free = s.crcacc.toNat ∧ s.observe 3 free = s.rxbuf.length ∧
      s.observe 4 free = s.flen.toNat ∧ s.observe 5 free = s.cur.toNat ∧
      s.observe 6 free = s.cend.toNat ∧ s.observe 7 free = s.status.toNat ∧
      s.observe 8 free = s.finfo.toNat ∧ ∀ k, 9 ≤ k → s.observe k free = free

/-- The packing of STATUS (R39). -/
def Obligations.StatusPacksTheFlags : Prop :=
  ∀ s : State,
    s.status.extractLsb' 0 3 = s.st ∧ s.status.getLsbD 3 = s.fault ∧
      s.status.extractLsb' 4 3 = s.fcause ∧
      (s.status.getLsbD 7 = true ↔ s.params.bufCap = some s.rxcnt) ∧
      (s.status.getLsbD 8 = true ↔ s.rxcnt = 0) ∧ s.status.extractLsb' 9 23 = 0

/-- The frame read port reads `FRAME[i]` for `i < FLEN`; beyond, the value is whatever the argument says (R40; that it is
an argument is the model's choice, log 9). -/
def Obligations.FrameReadPortReadsTheFrame : Prop :=
  ∀ (s : State) (i : Nat) (free : Byte),
    (∀ h : i < s.frame.length, s.readFrame i free = s.frame[i]) ∧
      (s.frame.length ≤ i → s.readFrame i free = free)
end

