-- ==== Sys2Proof/Laws/Encoding.lean ====
section
/-! SUPPORT. The fields of a word that was put together from its fields (30_encoding.md R71). -/

namespace Sys2Proof

theorem opcField_toNat (w : Word) : (opcField w).toNat = w.toNat % 2 ^ 8 := by
  simp [opcField, BitVec.extractLsb'_toNat]

theorem aField_toNat (w : Word) : (aField w).toNat = w.toNat / 2 ^ 8 % 2 ^ 8 := by
  simp [aField, BitVec.extractLsb'_toNat, Nat.shiftRight_eq_div_pow]

theorem bField_toNat (w : Word) : (bField w).toNat = w.toNat / 2 ^ 16 % 2 ^ 8 := by
  simp [bField, BitVec.extractLsb'_toNat, Nat.shiftRight_eq_div_pow]

theorem cField_toNat (w : Word) : (cField w).toNat = w.toNat / 2 ^ 24 := by
  have := w.isLt
  simp only [cField, BitVec.extractLsb'_toNat, Nat.shiftRight_eq_div_pow]
  omega

theorem lenField_toNat (w : Word) : (lenField w).toNat = w.toNat / 2 ^ 8 % 2 ^ 16 := by
  simp [lenField, BitVec.extractLsb'_toNat, Nat.shiftRight_eq_div_pow]

theorem wordOf_toNat (c b a opc : Byte) :
    (wordOf c b a opc).toNat = opc.toNat + 2 ^ 8 * a.toNat + 2 ^ 16 * b.toNat + 2 ^ 24 * c.toNat := by
  have := c.isLt; have := b.isLt; have := a.isLt; have := opc.isLt
  simp only [wordOf, BitVec.toNat_ofNat]
  omega

@[simp] theorem opcField_wordOf (c b a opc : Byte) : opcField (wordOf c b a opc) = opc := by
  have := c.isLt; have := b.isLt; have := a.isLt; have := opc.isLt
  apply BitVec.eq_of_toNat_eq
  rw [opcField_toNat, wordOf_toNat]
  omega

@[simp] theorem aField_wordOf (c b a opc : Byte) : aField (wordOf c b a opc) = a := by
  have := c.isLt; have := b.isLt; have := a.isLt; have := opc.isLt
  apply BitVec.eq_of_toNat_eq
  rw [aField_toNat, wordOf_toNat]
  omega

@[simp] theorem bField_wordOf (c b a opc : Byte) : bField (wordOf c b a opc) = b := by
  have := c.isLt; have := b.isLt; have := a.isLt; have := opc.isLt
  apply BitVec.eq_of_toNat_eq
  rw [bField_toNat, wordOf_toNat]
  omega

@[simp] theorem cField_wordOf (c b a opc : Byte) : cField (wordOf c b a opc) = c := by
  have := c.isLt; have := b.isLt; have := a.isLt; have := opc.isLt
  apply BitVec.eq_of_toNat_eq
  rw [cField_toNat, wordOf_toNat]
  omega

/-- The length operand is `A + 256*B` (R74). -/
theorem lenField_wordOf_toNat (c b a opc : Byte) :
    (lenField (wordOf c b a opc)).toNat = a.toNat + 2 ^ 8 * b.toNat := by
  have := c.isLt; have := b.isLt; have := a.isLt; have := opc.isLt
  rw [lenField_toNat, wordOf_toNat]
  omega

/-- A word is its four fields (R71). -/
theorem wordOf_fields (w : Word) : wordOf (cField w) (bField w) (aField w) (opcField w) = w := by
  have := w.isLt
  apply BitVec.eq_of_toNat_eq
  rw [wordOf_toNat, opcField_toNat, aField_toNat, bField_toNat, cField_toNat]
  omega

end Sys2Proof
end

