-- ==== Sys2Proof/Laws/State.lean ====
section
/-! SUPPORT. One lemma per field per update: what each shared operation leaves in each field of the state. -/

namespace Sys2Proof.Machine

variable (s : State)

@[simp] theorem raiseFault_res (cause : BitVec 3) (cw : Word) : (raiseFault cause cw s).res = s.res := rfl
@[simp] theorem raiseFault_raw (cause : BitVec 3) (cw : Word) : (raiseFault cause cw s).raw = s.raw := rfl
@[simp] theorem raiseFault_st (cause : BitVec 3) (cw : Word) : (raiseFault cause cw s).st = stFault := rfl
@[simp] theorem raiseFault_crcacc (cause : BitVec 3) (cw : Word) : (raiseFault cause cw s).crcacc = s.crcacc := rfl
@[simp] theorem raiseFault_rxbuf (cause : BitVec 3) (cw : Word) : (raiseFault cause cw s).rxbuf = s.rxbuf := rfl
@[simp] theorem raiseFault_frame (cause : BitVec 3) (cw : Word) : (raiseFault cause cw s).frame = s.frame := rfl
@[simp] theorem raiseFault_cur (cause : BitVec 3) (cw : Word) : (raiseFault cause cw s).cur = s.cur := rfl
@[simp] theorem raiseFault_cend (cause : BitVec 3) (cw : Word) : (raiseFault cause cw s).cend = s.cend := rfl
@[simp] theorem raiseFault_fault (cause : BitVec 3) (cw : Word) : (raiseFault cause cw s).fault = true := rfl
@[simp] theorem raiseFault_fcause (cause : BitVec 3) (cw : Word) : (raiseFault cause cw s).fcause = cause := rfl
@[simp] theorem raiseFault_finfo (cause : BitVec 3) (cw : Word) : (raiseFault cause cw s).finfo = cw := rfl
@[simp] theorem raiseFault_params (cause : BitVec 3) (cw : Word) : (raiseFault cause cw s).params = s.params := rfl
@[simp] theorem raiseFault_nanDraws (cause : BitVec 3) (cw : Word) : (raiseFault cause cw s).nanDraws =
    s.nanDraws := rfl
@[simp] theorem raiseFault_hostLine (cause : BitVec 3) (cw : Word) : (raiseFault cause cw s).hostLine =
    s.hostLine := rfl
@[simp] theorem raiseFault_rxLine (cause : BitVec 3) (cw : Word) : (raiseFault cause cw s).rxLine = s.rxLine := rfl
@[simp] theorem raiseFault_turns (cause : BitVec 3) (cw : Word) : (raiseFault cause cw s).turns = s.turns := rfl

@[simp] theorem resetBlock_res : (resetBlock s).res = 0 := rfl
@[simp] theorem resetBlock_raw : (resetBlock s).raw = 0 := rfl
@[simp] theorem resetBlock_st : (resetBlock s).st = 0 := rfl
@[simp] theorem resetBlock_crcacc : (resetBlock s).crcacc = 0xFFFF := rfl
@[simp] theorem resetBlock_rxbuf : (resetBlock s).rxbuf = [] := rfl
@[simp] theorem resetBlock_frame : (resetBlock s).frame = [] := rfl
@[simp] theorem resetBlock_cur : (resetBlock s).cur = 0 := rfl
@[simp] theorem resetBlock_cend : (resetBlock s).cend = 0 := rfl
@[simp] theorem resetBlock_fault : (resetBlock s).fault = false := rfl
@[simp] theorem resetBlock_fcause : (resetBlock s).fcause = 0 := rfl
@[simp] theorem resetBlock_finfo : (resetBlock s).finfo = 0 := rfl
@[simp] theorem resetBlock_params : (resetBlock s).params = s.params := rfl
@[simp] theorem resetBlock_nanDraws : (resetBlock s).nanDraws = s.nanDraws := rfl
@[simp] theorem resetBlock_hostLine : (resetBlock s).hostLine = s.hostLine := rfl
@[simp] theorem resetBlock_rxLine : (resetBlock s).rxLine = s.rxLine := rfl
@[simp] theorem resetBlock_turns : (resetBlock s).turns = s.turns := rfl

@[simp] theorem setStatus_res (st : BitVec 3) : (setStatus st s).res = s.res := rfl
@[simp] theorem setStatus_raw (st : BitVec 3) : (setStatus st s).raw = s.raw := rfl
@[simp] theorem setStatus_st (st : BitVec 3) : (setStatus st s).st = st := rfl
@[simp] theorem setStatus_crcacc (st : BitVec 3) : (setStatus st s).crcacc = s.crcacc := rfl
@[simp] theorem setStatus_rxbuf (st : BitVec 3) : (setStatus st s).rxbuf = s.rxbuf := rfl
@[simp] theorem setStatus_frame (st : BitVec 3) : (setStatus st s).frame = s.frame := rfl
@[simp] theorem setStatus_cur (st : BitVec 3) : (setStatus st s).cur = s.cur := rfl
@[simp] theorem setStatus_cend (st : BitVec 3) : (setStatus st s).cend = s.cend := rfl
@[simp] theorem setStatus_fault (st : BitVec 3) : (setStatus st s).fault = s.fault := rfl
@[simp] theorem setStatus_fcause (st : BitVec 3) : (setStatus st s).fcause = s.fcause := rfl
@[simp] theorem setStatus_finfo (st : BitVec 3) : (setStatus st s).finfo = s.finfo := rfl
@[simp] theorem setStatus_params (st : BitVec 3) : (setStatus st s).params = s.params := rfl
@[simp] theorem setStatus_nanDraws (st : BitVec 3) : (setStatus st s).nanDraws = s.nanDraws := rfl
@[simp] theorem setStatus_hostLine (st : BitVec 3) : (setStatus st s).hostLine = s.hostLine := rfl
@[simp] theorem setStatus_rxLine (st : BitVec 3) : (setStatus st s).rxLine = s.rxLine := rfl
@[simp] theorem setStatus_turns (st : BitVec 3) : (setStatus st s).turns = s.turns := rfl

@[simp] theorem setCrc_res (c : Half) : (setCrc c s).res = s.res := rfl
@[simp] theorem setCrc_raw (c : Half) : (setCrc c s).raw = s.raw := rfl
@[simp] theorem setCrc_st (c : Half) : (setCrc c s).st = stOk := rfl
@[simp] theorem setCrc_crcacc (c : Half) : (setCrc c s).crcacc = c := rfl
@[simp] theorem setCrc_rxbuf (c : Half) : (setCrc c s).rxbuf = s.rxbuf := rfl
@[simp] theorem setCrc_frame (c : Half) : (setCrc c s).frame = s.frame := rfl
@[simp] theorem setCrc_cur (c : Half) : (setCrc c s).cur = s.cur := rfl
@[simp] theorem setCrc_cend (c : Half) : (setCrc c s).cend = s.cend := rfl
@[simp] theorem setCrc_fault (c : Half) : (setCrc c s).fault = s.fault := rfl
@[simp] theorem setCrc_fcause (c : Half) : (setCrc c s).fcause = s.fcause := rfl
@[simp] theorem setCrc_finfo (c : Half) : (setCrc c s).finfo = s.finfo := rfl
@[simp] theorem setCrc_params (c : Half) : (setCrc c s).params = s.params := rfl
@[simp] theorem setCrc_nanDraws (c : Half) : (setCrc c s).nanDraws = s.nanDraws := rfl
@[simp] theorem setCrc_hostLine (c : Half) : (setCrc c s).hostLine = s.hostLine := rfl
@[simp] theorem setCrc_rxLine (c : Half) : (setCrc c s).rxLine = s.rxLine := rfl
@[simp] theorem setCrc_turns (c : Half) : (setCrc c s).turns = s.turns := rfl

@[simp] theorem moveFrame_res (n : Nat) : (moveFrame n s).res = s.res := rfl
@[simp] theorem moveFrame_raw (n : Nat) : (moveFrame n s).raw = s.raw := rfl
@[simp] theorem moveFrame_st (n : Nat) : (moveFrame n s).st = s.st := rfl
@[simp] theorem moveFrame_crcacc (n : Nat) : (moveFrame n s).crcacc = s.crcacc := rfl
@[simp] theorem moveFrame_rxbuf (n : Nat) : (moveFrame n s).rxbuf = s.rxbuf.drop n := rfl
@[simp] theorem moveFrame_frame (n : Nat) : (moveFrame n s).frame = s.rxbuf.take n := rfl
@[simp] theorem moveFrame_cur (n : Nat) : (moveFrame n s).cur = 0 := rfl
@[simp] theorem moveFrame_cend (n : Nat) : (moveFrame n s).cend = BitVec.ofNat 16 n := rfl
@[simp] theorem moveFrame_fault (n : Nat) : (moveFrame n s).fault = s.fault := rfl
@[simp] theorem moveFrame_fcause (n : Nat) : (moveFrame n s).fcause = s.fcause := rfl
@[simp] theorem moveFrame_finfo (n : Nat) : (moveFrame n s).finfo = s.finfo := rfl
@[simp] theorem moveFrame_params (n : Nat) : (moveFrame n s).params = s.params := rfl
@[simp] theorem moveFrame_nanDraws (n : Nat) : (moveFrame n s).nanDraws = s.nanDraws := rfl
@[simp] theorem moveFrame_hostLine (n : Nat) : (moveFrame n s).hostLine = s.hostLine := rfl
@[simp] theorem moveFrame_rxLine (n : Nat) : (moveFrame n s).rxLine = s.rxLine := rfl
@[simp] theorem moveFrame_turns (n : Nat) : (moveFrame n s).turns = s.turns := rfl

@[simp] theorem readElement_res (t : EType) : (readElement t s).res =
    conv t (s.elementAtCursor t) (Config.nanDraw s.nanDraws) := rfl
@[simp] theorem readElement_raw (t : EType) : (readElement t s).raw = BitVec.ofNat 64 (s.elementAtCursor t) := rfl
@[simp] theorem readElement_st (t : EType) : (readElement t s).st = stOk := rfl
@[simp] theorem readElement_crcacc (t : EType) : (readElement t s).crcacc = s.crcacc := rfl
@[simp] theorem readElement_rxbuf (t : EType) : (readElement t s).rxbuf = s.rxbuf := rfl
@[simp] theorem readElement_frame (t : EType) : (readElement t s).frame = s.frame := rfl
@[simp] theorem readElement_cur (t : EType) : (readElement t s).cur =
    s.cur + BitVec.ofNat 16 (width s.params t) := rfl
@[simp] theorem readElement_cend (t : EType) : (readElement t s).cend = s.cend := rfl
@[simp] theorem readElement_fault (t : EType) : (readElement t s).fault = s.fault := rfl
@[simp] theorem readElement_fcause (t : EType) : (readElement t s).fcause = s.fcause := rfl
@[simp] theorem readElement_finfo (t : EType) : (readElement t s).finfo = s.finfo := rfl
@[simp] theorem readElement_params (t : EType) : (readElement t s).params = s.params := rfl
@[simp] theorem readElement_nanDraws (t : EType) : (readElement t s).nanDraws =
    if usesDraw t (s.elementAtCursor t) then s.nanDraws + 1 else s.nanDraws := rfl
@[simp] theorem readElement_hostLine (t : EType) : (readElement t s).hostLine = s.hostLine := rfl
@[simp] theorem readElement_rxLine (t : EType) : (readElement t s).rxLine = s.rxLine := rfl
@[simp] theorem readElement_turns (t : EType) : (readElement t s).turns = s.turns := rfl

@[simp] theorem receiveByte_res (b : Byte) : (receiveByte b s).res = s.res := by
  unfold receiveByte; split <;> rfl
@[simp] theorem receiveByte_raw (b : Byte) : (receiveByte b s).raw = s.raw := by
  unfold receiveByte; split <;> rfl
@[simp] theorem receiveByte_st (b : Byte) : (receiveByte b s).st = s.st := by
  unfold receiveByte; split <;> rfl
@[simp] theorem receiveByte_crcacc (b : Byte) : (receiveByte b s).crcacc = s.crcacc := by
  unfold receiveByte; split <;> rfl
@[simp] theorem receiveByte_frame (b : Byte) : (receiveByte b s).frame = s.frame := by
  unfold receiveByte; split <;> rfl
@[simp] theorem receiveByte_cur (b : Byte) : (receiveByte b s).cur = s.cur := by
  unfold receiveByte; split <;> rfl
@[simp] theorem receiveByte_cend (b : Byte) : (receiveByte b s).cend = s.cend := by
  unfold receiveByte; split <;> rfl
@[simp] theorem receiveByte_fault (b : Byte) : (receiveByte b s).fault = s.fault := by
  unfold receiveByte; split <;> rfl
@[simp] theorem receiveByte_fcause (b : Byte) : (receiveByte b s).fcause = s.fcause := by
  unfold receiveByte; split <;> rfl
@[simp] theorem receiveByte_finfo (b : Byte) : (receiveByte b s).finfo = s.finfo := by
  unfold receiveByte; split <;> rfl
@[simp] theorem receiveByte_params (b : Byte) : (receiveByte b s).params = s.params := by
  unfold receiveByte; split <;> rfl
@[simp] theorem receiveByte_nanDraws (b : Byte) : (receiveByte b s).nanDraws = s.nanDraws := by
  unfold receiveByte; split <;> rfl
@[simp] theorem receiveByte_hostLine (b : Byte) : (receiveByte b s).hostLine = s.hostLine := by
  unfold receiveByte; split <;> rfl
@[simp] theorem receiveByte_turns (b : Byte) : (receiveByte b s).turns = s.turns := by
  unfold receiveByte; split <;> rfl

theorem receiveByte_rxbuf (b : Byte) :
    (receiveByte b s).rxbuf = if s.rxReady then s.rxbuf ++ [b] else s.rxbuf := by
  unfold receiveByte; split <;> rfl
theorem receiveByte_rxLine (b : Byte) :
    (receiveByte b s).rxLine = if s.rxReady then s.rxLine else b :: s.rxLine := by
  unfold receiveByte; split <;> rfl

end Sys2Proof.Machine
end

