-- ==== Sys2Proof/Laws/Ops.lean ====
section
/-! SUPPORT. One lemma per shared operation that says once everything it can do. -/

namespace Sys2Proof.Machine

/-- A command is ignored by a faulted block and has its effect on any other. -/
theorem onCommandPort_next {effect : State → State} {s t : State} (h : onCommandPort effect s = .next t) :
    (s.fault = true ∧ t = s) ∨ (s.fault = false ∧ t = effect s) := by
  unfold onCommandPort at h
  cases hf : s.fault <;> simp_all

theorem onCommandPort_faulted {effect : State → State} {s : State} (h : s.fault = true) :
    onCommandPort effect s = .next s := by
  simp [onCommandPort, h]

theorem onCommandPort_unfaulted {effect : State → State} {s : State} (h : s.fault = false) :
    onCommandPort effect s = .next (effect s) := by
  simp [onCommandPort, h]

/-- The command port never stops the machine. -/
theorem onCommandPort_completes (effect : State → State) (s : State) :
    ∃ t, onCommandPort effect s = .next t := ⟨_, rfl⟩

theorem illegalCommand_next {cw : Word} {s t : State} (h : illegalCommand cw s = .next t) :
    (s.fault = true ∧ t = s) ∨ (s.fault = false ∧ t = raiseFault causeIllegal cw s) :=
  onCommandPort_next h

/-- A byte is appended, or goes back to the RX agent. -/
theorem receiveByte_cases (b : Byte) (s : State) :
    (s.rxReady = true ∧ receiveByte b s = { s with rxbuf := s.rxbuf ++ [b] }) ∨
      (s.rxReady = false ∧ receiveByte b s = { s with rxLine := b :: s.rxLine }) := by
  unfold receiveByte
  cases h : s.rxReady <;> simp

/-- With room for a byte the count after it is still within the capacity. -/
theorem holds_succ_of_rxReady {s : State} (h : s.rxReady = true) :
    s.params.holds (s.rxcnt + 1) = true := by
  unfold State.rxReady at h
  unfold Params.holds
  cases hc : s.params.bufCap <;> simp_all

/-- Fewer bytes than a number within the capacity are within it. -/
theorem holds_mono {p : Params} {m n : Nat} (hmn : m ≤ n) (h : p.holds n = true) : p.holds m = true := by
  unfold Params.holds at *
  cases hc : p.bufCap <;> simp_all
  omega

/-- TAKE faults, answers INSUFFICIENT, or moves a frame. -/
theorem takeFrame_cases (n : Nat) (cw : Word) (s : State) :
    ((n = 0 ∨ s.params.maxl < n) ∧ takeFrame n cw s = raiseFault causeLen cw s) ∨
      (n ≠ 0 ∧ n ≤ s.params.maxl ∧ s.rxcnt < n ∧ takeFrame n cw s = setStatus stInsufficient s) ∨
      (n ≠ 0 ∧ n ≤ s.params.maxl ∧ n ≤ s.rxcnt ∧ takeFrame n cw s = setStatus stOk (moveFrame n s)) := by
  unfold takeFrame
  split
  · exact .inl ⟨‹_›, rfl⟩
  · rename_i hn
    rw [not_or, not_lt] at hn
    split
    · exact .inr (.inl ⟨hn.1, hn.2, ‹_›, rfl⟩)
    · exact .inr (.inr ⟨hn.1, hn.2, by omega, rfl⟩)

/-- DEC underruns, or reads the element at the cursor. -/
theorem decodeElement_cases (e : EType) (cw : Word) (s : State) :
    (s.windowLeft < (width s.params e : Int) ∧ decodeElement e cw s = raiseFault causeUnderrun cw s) ∨
      ((width s.params e : Int) ≤ s.windowLeft ∧ decodeElement e cw s = readElement e s) := by
  unfold decodeElement
  split
  · exact .inl ⟨‹_›, rfl⟩
  · exact .inr ⟨by omega, rfl⟩

/-- DEC of an unknown code faults, or is a 32-bit signed decode. -/
theorem decodeUnknown_cases (cw : Word) (s : State) :
    (s.params.unknownEtype = .reject ∧ decodeUnknown cw s = raiseFault causeEtype cw s) ∨
      (s.params.unknownEtype = .defaultI32 ∧ decodeUnknown cw s = decodeElement .i32 cw s) := by
  unfold decodeUnknown
  split
  · exact .inl ⟨‹_›, rfl⟩
  · exact .inr ⟨‹_›, rfl⟩

/-- TRIM faults, or opens the window over the payload. -/
theorem trimWindow_cases (cw : Word) (s : State) :
    (s.frame.length < 2 ∧ trimWindow cw s = raiseFault causeLen cw s) ∨
      (2 ≤ s.frame.length ∧
        trimWindow cw s = { s with cur := 0, cend := BitVec.ofNat 16 (s.frame.length - 2), st := stOk }) := by
  unfold trimWindow
  split
  · exact .inl ⟨‹_›, rfl⟩
  · exact .inr ⟨by omega, rfl⟩

/-- CRCVFY answers CRCBAD on a short frame and else compares. -/
theorem verifyFrame_cases (s : State) :
    (s.frame.length < 2 ∧ verifyFrame s = { s with st := stCrcBad }) ∨
      (2 ≤ s.frame.length ∧
        verifyFrame s = { s with
          crcacc := crc16 (frameBody s.frame), st := if verify s.frame then stOk else stCrcBad }) := by
  by_cases hl : s.frame.length < 2
  · exact .inl ⟨hl, by simp [verifyFrame, hl, setStatus]⟩
  · exact .inr ⟨by omega, by simp [verifyFrame, verify, hl, setStatus]⟩

/-- The read window never holds more bytes than asked for. -/
theorem frameBytes_length_le (s : State) (a n : Nat) : (s.frameBytes a n).length ≤ n := by
  simp [State.frameBytes]

/-- `le` of `n` bytes is below `256^n` (R11). -/
theorem le_lt (bs : List Byte) : le bs < 256 ^ bs.length := by
  induction bs with
  | nil => simp [le]
  | cons b bs ih =>
    have hb := b.isLt
    simp only [le, List.length_cons, pow_succ]
    omega

theorem le_append (xs ys : List Byte) : le (xs ++ ys) = le xs + 256 ^ xs.length * le ys := by
  induction xs with
  | nil => simp [le]
  | cons b xs ih => simp only [List.cons_append, le, ih, List.length_cons, pow_succ]; ring

@[simp] theorem leBytes_length (n v : Nat) : (leBytes n v).length = n := by
  induction n generalizing v with
  | zero => rfl
  | succ n ih => simp [leBytes, ih]

/-- `le` undoes `le_bytes_n` (R11). -/
theorem le_leBytes (n v : Nat) : le (leBytes n v) = v % 256 ^ n := by
  induction n generalizing v with
  | zero => simp [leBytes, le, Nat.mod_one]
  | succ n ih =>
    have h8 : (BitVec.ofNat 8 v).toNat = v % 256 := BitVec.toNat_ofNat ..
    rw [leBytes, le, ih, h8, Nat.pow_succ, Nat.mul_comm (256 ^ n) 256, Nat.mod_mul]

end Sys2Proof.Machine
end

