-- ==== Sys2Proof/Laws/Link.lean ====
section
/-! SUPPORT. What the host's operations over the block can do, said once. -/

namespace Sys2Proof.Machine

@[simp] theorem nextOr_next (s t : State) : nextOr s (.next t) = t := rfl

@[simp] theorem rxTurns_zero (s : State) : rxTurns 0 s = s := rfl

theorem rxTurns_succ (k : Nat) (s : State) : rxTurns (k + 1) s = rxTurns k (nextOr s (rxTurn s)) := rfl

/-- A turn of the RX agent appends the first byte of its line, or changes nothing: the line is empty, or the byte
finds no room and stays. -/
theorem rxTurn_cases (s : State) :
    (∃ b bs, s.rxLine = b :: bs ∧ s.rxReady = true ∧
        rxTurn s = .next { s with rxbuf := s.rxbuf ++ [b], rxLine := bs }) ∨
      ((s.rxLine = [] ∨ s.rxReady = false) ∧ rxTurn s = .next s) := by
  cases hl : s.rxLine with
  | nil => exact .inr ⟨.inl rfl, by simp [rxTurn, hl]⟩
  | cons b bs =>
    cases hr : s.rxReady
    · refine .inr ⟨.inr rfl, ?_⟩
      obtain ⟨h, _⟩ | ⟨_, h⟩ := receiveByte_cases b { s with rxLine := bs }
      · exact absurd (h.symm.trans hr) (by decide)
      · simp only [rxTurn, hl, runTransaction, exec, execPush, h]
        rw [← hl]
    · refine .inl ⟨b, bs, rfl, rfl, ?_⟩
      obtain ⟨_, h⟩ | ⟨h, _⟩ := receiveByte_cases b { s with rxLine := bs }
      · simp only [rxTurn, hl, runTransaction, exec, execPush, h]
      · exact absurd (h.symm.trans hr) (by decide)

/-- Turns of the RX agent move bytes from the head of its line to the tail of RXBUF and change nothing else. The stream
keeps its bytes and their order; at most one byte a turn moves; and what could have moved and fits the capacity has. -/
theorem rxTurns_spec (k : Nat) (s : State) :
    ∃ a b, rxTurns k s = { s with rxbuf := a, rxLine := b } ∧
      a ++ b = s.rxbuf ++ s.rxLine ∧ s.rxbuf <+: a ∧ a.length ≤ s.rxcnt + k ∧
      ∀ n, s.params.holds n = true → n ≤ (s.rxbuf ++ s.rxLine).length → n ≤ s.rxcnt + k → n ≤ a.length := by
  induction k generalizing s with
  | zero => exact ⟨s.rxbuf, s.rxLine, rfl, rfl, List.prefix_rfl, le_rfl, fun _ _ _ h => h⟩
  | succ k ih =>
    rw [rxTurns_succ]
    obtain ⟨b, bs, hl, -, h⟩ | ⟨hc, h⟩ := rxTurn_cases s <;> rw [h, nextOr_next]
    · obtain ⟨a, c, he, hs, hp, hle, hn⟩ := ih { s with rxbuf := s.rxbuf ++ [b], rxLine := bs }
      simp only [State.rxcnt, List.length_append, List.length_singleton] at hle hn ⊢
      refine ⟨a, c, by rw [he], by simpa [hl] using hs, (List.prefix_append _ _).trans hp, by omega, ?_⟩
      intro n h1 h2 h3
      simp only [hl, List.length_cons] at h2
      exact hn n h1 (by omega) (by omega)
    · obtain ⟨a, c, he, hs, hp, hle, hn⟩ := ih s
      refine ⟨a, c, he, hs, hp, by omega, fun n h1 h2 h3 => hp.length_le.trans' ?_⟩
      rcases hc with hc | hc
      · simpa [hc] using h2
      · cases hcap : s.params.bufCap with
        | none => simp [State.rxReady, hcap] at hc
        | some cap =>
          simp only [State.rxReady, Params.holds, hcap, decide_eq_true_eq, decide_eq_false_iff_not] at hc h1
          simp only [State.rxcnt] at hc
          omega

@[simp] theorem rxTurns_res (k : Nat) (s : State) : (rxTurns k s).res = s.res := by
  obtain ⟨a, b, h, -⟩ := rxTurns_spec k s; rw [h]
@[simp] theorem rxTurns_raw (k : Nat) (s : State) : (rxTurns k s).raw = s.raw := by
  obtain ⟨a, b, h, -⟩ := rxTurns_spec k s; rw [h]
@[simp] theorem rxTurns_st (k : Nat) (s : State) : (rxTurns k s).st = s.st := by
  obtain ⟨a, b, h, -⟩ := rxTurns_spec k s; rw [h]
@[simp] theorem rxTurns_crcacc (k : Nat) (s : State) : (rxTurns k s).crcacc = s.crcacc := by
  obtain ⟨a, b, h, -⟩ := rxTurns_spec k s; rw [h]
@[simp] theorem rxTurns_frame (k : Nat) (s : State) : (rxTurns k s).frame = s.frame := by
  obtain ⟨a, b, h, -⟩ := rxTurns_spec k s; rw [h]
@[simp] theorem rxTurns_cur (k : Nat) (s : State) : (rxTurns k s).cur = s.cur := by
  obtain ⟨a, b, h, -⟩ := rxTurns_spec k s; rw [h]
@[simp] theorem rxTurns_cend (k : Nat) (s : State) : (rxTurns k s).cend = s.cend := by
  obtain ⟨a, b, h, -⟩ := rxTurns_spec k s; rw [h]
@[simp] theorem rxTurns_fault (k : Nat) (s : State) : (rxTurns k s).fault = s.fault := by
  obtain ⟨a, b, h, -⟩ := rxTurns_spec k s; rw [h]
@[simp] theorem rxTurns_fcause (k : Nat) (s : State) : (rxTurns k s).fcause = s.fcause := by
  obtain ⟨a, b, h, -⟩ := rxTurns_spec k s; rw [h]
@[simp] theorem rxTurns_finfo (k : Nat) (s : State) : (rxTurns k s).finfo = s.finfo := by
  obtain ⟨a, b, h, -⟩ := rxTurns_spec k s; rw [h]
@[simp] theorem rxTurns_params (k : Nat) (s : State) : (rxTurns k s).params = s.params := by
  obtain ⟨a, b, h, -⟩ := rxTurns_spec k s; rw [h]
@[simp] theorem rxTurns_nanDraws (k : Nat) (s : State) : (rxTurns k s).nanDraws = s.nanDraws := by
  obtain ⟨a, b, h, -⟩ := rxTurns_spec k s; rw [h]

@[simp] theorem issueAfter_zero (i : Instr) (s : State) : issueAfter 0 i s = issue i s := rfl

@[simp] theorem gapsFrom_apply (n k : Nat) (gaps : Gaps) : gapsFrom n gaps k = gaps (n + k) := rfl

/-- Without pushes between them the commands follow each other. -/
theorem issueSpaced_no_gaps (is : List Instr) (s : State) : issueSpaced is (fun _ => 0) s = issueAll is s := by
  induction is generalizing s with
  | nil => rfl
  | cons i is ih => exact ih (issue i s)

/-- Issued TAKE, on a block that takes commands. -/
theorem issue_take {s : State} (len : Half) (h : s.fault = false) :
    issue (.take len) s = takeFrame len.toNat (encodeCW (.take len)) s := by
  simp [issue, exec, execTake, onCommandPort_unfaulted h]

theorem issue_crcvfy {s : State} (h : s.fault = false) : issue .crcvfy s = verifyFrame s := by
  simp [issue, exec, execCrcvfy, onCommandPort_unfaulted h]

theorem issue_trim {s : State} (h : s.fault = false) :
    issue .trim s = trimWindow (encodeCW .trim) s := by
  simp [issue, exec, execTrim, onCommandPort_unfaulted h]

theorem issue_xbits {s : State} (off size : Byte) (v : DWord) (h : s.fault = false) :
    issue (.xbits off size v) s =
      setStatus stOk { s with res := BitVec.ofNat 64 (extractBits v.toNat off.toNat size.toNat) } := by
  simp [issue, exec, execXbits, onCommandPort_unfaulted h]

/-- `DECODE <NAME>` is the decode of its element type (R85). -/
theorem issue_decOf {s : State} (e : EType) (h : s.fault = false) :
    issue (decOf e) s = decodeElement e (encodeCW (decOf e)) s := by
  cases e <;>
    simp [issue, exec, decOf, execDecBool, execDecChar, execDecI8, execDecU8, execDecI16, execDecU16,
      execDecI32, execDecU32, execDecI64, execDecU64, execDecF32, execDecF64, onCommandPort_unfaulted h]

/-- A length that fits is asked for as it is. -/
theorem takeLength_toNat {n : Nat} (h : n ≤ 65535) : (takeLength n).toNat = n := by
  simp [takeLength, show n < 65536 by omega, Nat.mod_eq_of_lt (show n < 65536 by omega)]

/-- Asked for outside 1..MAXL, whatever the length, TAKE has a length outside 1..MAXL (R171). -/
theorem takeLength_out_of_range {n m : Nat} (h : n = 0 ∨ m < n) :
    (takeLength n).toNat = 0 ∨ m < (takeLength n).toNat := by
  unfold takeLength
  split
  · rw [BitVec.toNat_ofNat, Nat.mod_eq_of_lt ‹_›]
    exact h
  · exact .inl rfl

@[simp] theorem pollTake_nil (len : Half) (s : State) : pollTake len [] s = (s, .stopped) := rfl

/-- One round of POLLTAKE: it goes on exactly while ST is INSUFFICIENT (R85). -/
theorem pollTake_cons (len : Half) (k : Nat) (ks : List Nat) (s : State) :
    pollTake len (k :: ks) s =
      if (issueAfter k (.take len) s).st = stInsufficient then
        pollTake len ks (issueAfter k (.take len) s)
      else (issueAfter k (.take len) s,
        if (issueAfter k (.take len) s).st = stOk then .taken else .faulted) := rfl

end Sys2Proof.Machine
end

