-- ==== Sys2Proof/Laws/PerInstr.lean ====
section
/-! SUPPORT. A family of lemmas, one per instruction: the command word the encoder writes has C zero, and
its opcode is one of the opcode map's, but for PUSH, whose row is a byte (30_encoding.md R72, R73, R76). -/

namespace Sys2Proof.Laws.EncodedFields

/-- What the family says of one instruction. -/
def Statement (i : Instr) : Prop :=
  cField (encodeCW i) = 0 ∧
    ((∃ b, i = .push b ∧ encode i = .rx b) ∨
      opcField (encodeCW i) ∈ ([0x10, 0x11, 0x12, 0x13, 0x20, 0x30, 0x31, 0x40] : List Byte))

theorem crcinit : Statement .crcinit := by simp [Statement, encodeCW]
theorem crcupd (b : Byte) : Statement (.crcupd b) := by simp [Statement, encodeCW]
theorem crccalc : Statement .crccalc := by simp [Statement, encodeCW]
theorem crcvfy : Statement .crcvfy := by simp [Statement, encodeCW]
theorem xbits (off size : Byte) (value : DWord) : Statement (.xbits off size value) := by
  simp [Statement, encodeCW]
theorem decBool : Statement .decBool := by simp [Statement, encodeCW]
theorem decChar : Statement .decChar := by simp [Statement, encodeCW]
theorem decI8 : Statement .decI8 := by simp [Statement, encodeCW]
theorem decU8 : Statement .decU8 := by simp [Statement, encodeCW]
theorem decI16 : Statement .decI16 := by simp [Statement, encodeCW]
theorem decU16 : Statement .decU16 := by simp [Statement, encodeCW]
theorem decI32 : Statement .decI32 := by simp [Statement, encodeCW]
theorem decU32 : Statement .decU32 := by simp [Statement, encodeCW]
theorem decI64 : Statement .decI64 := by simp [Statement, encodeCW]
theorem decU64 : Statement .decU64 := by simp [Statement, encodeCW]
theorem decF32 : Statement .decF32 := by simp [Statement, encodeCW]
theorem decF64 : Statement .decF64 := by simp [Statement, encodeCW]
theorem decUnk (t : Byte) : Statement (.decUnk t) := by simp [Statement, encodeCW]
theorem trim : Statement .trim := by simp [Statement, encodeCW]
theorem take (len : Half) : Statement (.take len) := by simp [Statement, encodeCW]
theorem push (b : Byte) : Statement (.push b) := by simp [Statement, encodeCW, encode]

end Sys2Proof.Laws.EncodedFields
end

