-- ==== Sys2Proof/Laws/Step.lean ====
section
/-! SUPPORT. What `step` and `runTransaction` can do, said once. -/

namespace Sys2Proof.Machine

/-- A transaction is a legal command, an illegal one, or a byte. -/
theorem runTransaction_cases (tr : Transaction) (s : State) :
    (∃ c i, tr = .command c ∧ decodeCommand c = .legal i ∧ runTransaction tr s = exec i s) ∨
      (∃ c why, tr = .command c ∧ decodeCommand c = .illegal why ∧
        runTransaction tr s = illegalCommand c.cw s) ∨
      (∃ b, tr = .rx b ∧ runTransaction tr s = exec (.push b) s) := by
  cases tr with
  | rx b => exact .inr (.inr ⟨b, rfl, rfl⟩)
  | command c =>
    cases hd : decodeCommand c with
    | legal i => exact .inl ⟨c, i, rfl, hd, by simp [runTransaction, hd]⟩
    | illegal why => exact .inr (.inl ⟨c, why, rfl, hd, by simp [runTransaction, hd]⟩)

/-- The six things a step can be: the end of the run, an idle turn, a legal command, an illegal one, a byte
offered, a reset. -/
theorem step_cases (s : State) :
    (s.turns = [] ∧ step s = .fault .runEnded) ∨
      (∃ a ts, s.turns = a :: ts ∧ step s = .next { s with turns := ts } ∧
        ((a = .host ∧ s.hostLine = []) ∨ (a = .rx ∧ s.rxLine = []))) ∨
      (∃ ts c cs i, s.turns = .host :: ts ∧ s.hostLine = c :: cs ∧ decodeCommand c = .legal i ∧
        step s = exec i { s with turns := ts, hostLine := cs }) ∨
      (∃ ts c cs why, s.turns = .host :: ts ∧ s.hostLine = c :: cs ∧ decodeCommand c = .illegal why ∧
        step s = illegalCommand c.cw { s with turns := ts, hostLine := cs }) ∨
      (∃ ts b bs, s.turns = .rx :: ts ∧ s.rxLine = b :: bs ∧
        step s = exec (.push b) { s with turns := ts, rxLine := bs }) ∨
      (∃ ts, s.turns = .reset :: ts ∧ step s = .next (resetBlock { s with turns := ts })) := by
  cases ht : s.turns with
  | nil => exact .inl ⟨rfl, by simp [step, ht]⟩
  | cons a ts =>
    refine .inr ?_
    cases a with
    | reset => exact .inr (.inr (.inr (.inr ⟨ts, rfl, by simp [step, ht, turnOf]⟩)))
    | rx =>
      cases hl : s.rxLine with
      | nil => exact .inl ⟨.rx, ts, rfl, by simp [step, ht, turnOf, rxTurn, hl], .inr ⟨rfl, rfl⟩⟩
      | cons b bs =>
        exact .inr (.inr (.inr (.inl ⟨ts, b, bs, rfl, rfl, by
          simp [step, ht, turnOf, rxTurn, hl, runTransaction]⟩)))
    | host =>
      cases hl : s.hostLine with
      | nil => exact .inl ⟨.host, ts, rfl, by simp [step, ht, turnOf, hostTurn, hl], .inl ⟨rfl, rfl⟩⟩
      | cons c cs =>
        cases hd : decodeCommand c with
        | legal i =>
          exact .inr (.inl ⟨ts, c, cs, i, rfl, rfl, hd, by
            simp [step, ht, turnOf, hostTurn, hl, runTransaction, hd]⟩)
        | illegal why =>
          exact .inr (.inr (.inl ⟨ts, c, cs, why, rfl, rfl, hd, by
            simp [step, ht, turnOf, hostTurn, hl, runTransaction, hd]⟩))

end Sys2Proof.Machine
end

