-- ==== Sys2Proof/Machine/Listing.lean ====
section
/-! DEFINITION. The listing form of an event: mnemonic, operands and encoding as text (30_encoding.md R73,
R84). It has no part in what the block does. -/

namespace Sys2Proof.Machine

/-- The mnemonic of a command (R73, R75). -/
def mnemonic : Instr → String
  | .crcinit => "CRCINIT"
  | .crcupd _ => "CRCUPD"
  | .crccalc => "CRCCALC"
  | .crcvfy => "CRCVFY"
  | .xbits _ _ _ => "XBITS"
  | .decBool => "DEC.BOOL"
  | .decChar => "DEC.CHAR"
  | .decI8 => "DEC.I8"
  | .decU8 => "DEC.U8"
  | .decI16 => "DEC.I16"
  | .decU16 => "DEC.U16"
  | .decI32 => "DEC.I32"
  | .decU32 => "DEC.U32"
  | .decI64 => "DEC.I64"
  | .decU64 => "DEC.U64"
  | .decF32 => "DEC.F32"
  | .decF64 => "DEC.F64"
  | .decUnk _ => "DEC"
  | .trim => "TRIM"
  | .take _ => "TAKE"
  | .push _ => "PUSH"

/-- The hexadecimal digit of a number below 16. -/
def hexDigit (n : Nat) : Char := "0123456789ABCDEF".toList.getD n '0'

/-- `k` hexadecimal digits of `v`, the most significant first. -/
def hexDigits : Nat → Nat → List Char
  | 0, _ => []
  | k + 1, v => hexDigits k (v / 16) ++ [hexDigit (v % 16)]

/-- `0x` and `k` hexadecimal digits. -/
def hexText (k v : Nat) : String := "0x" ++ String.ofList (hexDigits k v)

/-- A line of a listing: the mnemonic, its operands separated by commas, and XBITS's `opv=` annotation (R84). -/
def listing (i : Instr) : String :=
  match i with
  | .crcupd b => mnemonic i ++ " " ++ hexText 2 b.toNat
  | .xbits off size value =>
    mnemonic i ++ " " ++ toString off.toNat ++ ", " ++ toString size.toNat ++ " opv=" ++ hexText 16 value.toNat
  | .decUnk t => mnemonic i ++ " #" ++ toString t.toNat
  | .take len => mnemonic i ++ " " ++ toString len.toNat
  | .push b => mnemonic i ++ " " ++ hexText 2 b.toNat
  | .crcinit | .crccalc | .crcvfy | .trim => mnemonic i
  | .decBool | .decChar | .decI8 | .decU8 | .decI16 | .decU16 => mnemonic i
  | .decI32 | .decU32 | .decI64 | .decU64 | .decF32 | .decF64 => mnemonic i

/-- The encoding of a line: CW as 8 hexadecimal digits, with OPV as 16 for XBITS, a PUSH as its byte (R84). -/
def listingEncoding (i : Instr) : String :=
  match i with
  | .push b => String.ofList (hexDigits 2 b.toNat)
  | .xbits _ _ value =>
    String.ofList (hexDigits 8 (encodeCW i).toNat) ++ " " ++ String.ofList (hexDigits 16 value.toNat)
  | .crcinit | .crcupd _ | .crccalc | .crcvfy | .trim | .take _ | .decUnk _ =>
    String.ofList (hexDigits 8 (encodeCW i).toNat)
  | .decBool | .decChar | .decI8 | .decU8 | .decI16 | .decU16 =>
    String.ofList (hexDigits 8 (encodeCW i).toNat)
  | .decI32 | .decU32 | .decI64 | .decU64 | .decF32 | .decF64 =>
    String.ofList (hexDigits 8 (encodeCW i).toNat)

end Sys2Proof.Machine
end

