-- ==== Sys2Proof/Tests/Slice0.lean ====
section
/-! SUPPORT. Tests with results taken from the spec (95_test_vectors.md; the rule's own example where there is one),
and for each statement with hypotheses a state and operands that meet them all. -/

namespace Sys2Proof.Tests

open Sys2Proof Sys2Proof.Machine

/-- The state after the one transaction whose table bits are `w`; the state before, if the machine stops. -/
def after (nbits w : Nat) (s : State) : State :=
  match step (s.withFetchWord nbits w) with
  | .next t => t
  | .fault _ => s
  | .refused _ => s

/-- The reset state with a frame taken and the window over the whole of it. -/
def framed (bs : List Byte) : State :=
  { State.reset with frame := bs, cend := BitVec.ofNat 16 bs.length }

/-- The reset state with bytes buffered. -/
def buffered (bs : List Byte) : State := { State.reset with rxbuf := bs }

/-- The reset state under `UNKNOWN_ETYPE = default_i32`, with a frame. -/
def lenient (bs : List Byte) : State :=
  { framed bs with params := { Config.suggested with unknownEtype := .defaultI32 } }

/-- A machine with `BUF_CAP = 4`, `MAXL = 3` and a full buffer (95_test_vectors.md section 2.6). -/
def full : State :=
  { buffered [1, 2, 3, 4] with params := { Config.suggested with bufCap := some 4, maxl := 3 } }

/-- The reset state after a fault. -/
def faulted : State := { State.reset with fault := true, fcause := 3, finfo := 0x330, st := 7 }

/-! ## WellFormed: the one check refuses an ill-formed term -/

theorem test_wf_refuses_named_code : Instr.wf (.decUnk 11) = false := by decide
theorem test_wf_accepts_unknown_code : Instr.wf (.decUnk 12) = true := by decide

/-! ## Decoding: a word of every row, written out from R73 -/

theorem test_decode_crc :
    decodeTableWord 32 0x00000010 = some .crcinit ∧ decodeTableWord 32 0x00005A11 = some (.crcupd 0x5A) ∧
      decodeTableWord 32 0x00000012 = some .crccalc ∧ decodeTableWord 32 0x00000013 = some .crcvfy := by
  decide
theorem test_decode_xbits :
    decodeTableWord 32 0x00030220 = some (.xbits 2 3 0) ∧
      decodeTableWord 96 0xB400030220 = some (.xbits 2 3 0xB4) := by decide
theorem test_decode_dec_narrow :
    decodeTableWord 32 0x00000030 = some .decBool ∧ decodeTableWord 32 0x00000130 = some .decChar ∧
      decodeTableWord 32 0x00000230 = some .decI8 ∧ decodeTableWord 32 0x00000330 = some .decU8 ∧
      decodeTableWord 32 0x00000430 = some .decI16 ∧ decodeTableWord 32 0x00000530 = some .decU16 := by
  decide
theorem test_decode_dec_wide :
    decodeTableWord 32 0x00000630 = some .decI32 ∧ decodeTableWord 32 0x00000730 = some .decU32 ∧
      decodeTableWord 32 0x00000830 = some .decI64 ∧ decodeTableWord 32 0x00000930 = some .decU64 ∧
      decodeTableWord 32 0x00000A30 = some .decF32 ∧ decodeTableWord 32 0x00000B30 = some .decF64 := by
  decide
theorem test_decode_dec_unk :
    decodeTableWord 32 0x00000C30 = some (.decUnk 12) ∧
      decodeTableWord 32 0x0000FF30 = some (.decUnk 255) := by decide
theorem test_decode_trim_take :
    decodeTableWord 32 0x00000031 = some .trim ∧ decodeTableWord 32 0x00010040 = some (.take 256) ∧
      decodeTableWord 32 0x00040140 = some (.take 1025) := by decide
theorem test_decode_push : decodeTableWord 8 0xAB = some (.push 0xAB) := by decide
theorem test_decode_illegal :
    decodeTableWord 32 0x00000032 = none ∧ decodeTableWord 32 0x80000010 = none ∧
      decodeTableWord 32 0x00000112 = none ∧ decodeTableWord 32 0x00010C30 = none ∧
      decodeTableWord 32 0xFFFFFFFF = none := by decide
theorem test_encode_words :
    encodeCW (.xbits 0 255 1) = 0x00FF0020 ∧ encodeCW (.take 1025) = 0x00040140 ∧
      encodeCW (.decUnk 200) = 0x0000C830 ∧ encode (.push 7) = .rx 7 := by decide

/-! ## CRC16 unit (95_test_vectors.md sections 2.1, 2.2) -/

theorem test_crcinit : (after 32 0x10 { State.reset with crcacc := 0x1234, st := 2 }).crcacc = 0xFFFF := by
  decide
theorem test_crcupd :
    (after 32 0x111 State.reset).crcacc = 0x807E ∧
      (after 32 0x1811 { State.reset with crcacc := 0x807E }).crcacc = 0x2A00 := by decide
theorem test_crccalc : (after 32 0x12 (framed [0x01, 0x17])).crcacc = 0x2E40 := by decide
theorem test_crcvfy_good :
    (after 32 0x13 (framed [0x01, 0x18, 0x00, 0x2A])).st = 0 ∧
      (after 32 0x13 (framed [0x01, 0x18, 0x00, 0x2A])).crcacc = 0x2A00 := by decide
theorem test_crcvfy_short :
    (after 32 0x13 { framed [0x55] with crcacc := 0xABCD }).st = 2 ∧
      (after 32 0x13 { framed [0x55] with crcacc := 0xABCD }).crcacc = 0xABCD := by decide
theorem test_crc_check_value : crc16 [0x31, 0x32, 0x33, 0x34, 0x35, 0x36, 0x37, 0x38, 0x39] = 0x4B37 := by
  decide

/-! ## XBITS (section 2.3) -/

theorem test_xbits_over_the_top :
    (after 96 (0xDEADBEEFCAFEF00D00400420) State.reset).res = 0x0DEADBEEFCAFEF00 := by decide
theorem test_xbits_off_64 :
    (after 96 (0xDEADBEEFCAFEF00D00014020) State.reset).res = 0 := by decide

/-! ## DEC and TRIM (sections 2.4, 2.5) -/

theorem test_dec_bool : (after 32 0x30 (framed [0x02])).res = 0x3FF0000000000000 := by decide
theorem test_dec_char : (after 32 0x130 (framed [0xFF])).res = 0x406FE00000000000 := by decide
theorem test_dec_char_two_bytes :
    (after 32 0x130
      { framed [0xAC, 0x20] with params := { Config.suggested with charBytes := .two } }).res =
        0x40C0560000000000 := by decide
theorem test_dec_i8 :
    (after 32 0x230 (framed [0x80])).res = 0xC060000000000000 ∧
      (after 32 0x230 (framed [0x80])).raw = 0x80 := by decide
theorem test_dec_u8 : (after 32 0x330 (framed [0xB4])).res = 0x4066800000000000 := by decide
theorem test_dec_i16 : (after 32 0x430 (framed [0x9C, 0xFF])).res = 0xC059000000000000 := by decide
theorem test_dec_u16 : (after 32 0x530 (framed [0x97, 0x7D])).res = 0x40DF65C000000000 := by decide
theorem test_dec_i32 :
    (after 32 0x630 (framed [0x78, 0x56, 0x34, 0x12])).res = 0x41B2345678000000 := by decide
theorem test_dec_u32 :
    (after 32 0x730 (framed [0xFF, 0xFF, 0xFF, 0xFF])).res = 0x41EFFFFFFFE00000 := by decide
theorem test_dec_i64_tie :
    (after 32 0x830 (framed [3, 0, 0, 0, 0, 0, 0x20, 0])).res = 0x4340000000000002 := by decide
theorem test_dec_i64_negative :
    (after 32 0x830 (framed [0xFF, 0xFF, 0xFF, 0xFF, 0xFF, 0xFF, 0xDF, 0xFF])).res =
      0xC340000000000000 := by decide
theorem test_dec_u64_above_tie :
    (after 32 0x930 (framed [1, 4, 0, 0, 0, 0, 0, 0x80])).res = 0x43E0000000000001 := by decide
theorem test_dec_u64_carry :
    (after 32 0x930 (framed [0xFF, 0xFF, 0xFF, 0xFF, 0xFF, 0xFF, 0xFF, 0xFF])).res =
      0x43F0000000000000 := by decide
theorem test_dec_f32_subnormal :
    (after 32 0xA30 (framed [0xFF, 0xFF, 0x7F, 0x00])).res = 0x380FFFFFC0000000 := by decide
theorem test_dec_f32_negative_zero :
    (after 32 0xA30 (framed [0, 0, 0, 0x80])).res = 0x8000000000000000 := by decide
theorem test_dec_f64 :
    (after 32 0xB30 (framed [1, 0, 0, 0, 0, 0, 0xF0, 0x7F])).res = 0x7FF0000000000001 := by decide
theorem test_dec_unk_rejects :
    (after 32 0xC30 State.reset).status = 0x14F ∧ (after 32 0xC30 State.reset).finfo = 0xC30 := by decide
theorem test_dec_unk_default :
    (after 32 0xC30 (lenient [0xFE, 0xFF, 0xFF, 0xFF, 0x01])).res = 0xC000000000000000 ∧
      (after 32 0xC830 (lenient [0x01])).finfo = 0xC830 := by decide
theorem test_trim :
    (after 32 0x31 { framed [1, 2, 3, 4, 5, 6, 7, 8] with cur := 3 }).cend = 6 ∧
      (after 32 0x31 { framed [1, 2, 3, 4, 5, 6, 7, 8] with cur := 3 }).cur = 0 := by decide
theorem test_trim_short : (after 32 0x31 (framed [1])).fcause = 2 := by decide

/-! ## PUSH and TAKE (section 2.6), faults (section 2.7) -/

theorem test_push : (after 8 0 (buffered [1, 2])).rxbuf = [1, 2, 0] := by decide
theorem test_push_full :
    (after 8 5 full).rxbuf = [1, 2, 3, 4] ∧ (after 8 5 full).rxLine = [5] := by decide
theorem test_take :
    (after 32 0x340 full).frame = [1, 2, 3] ∧ (after 32 0x340 full).rxbuf = [4] ∧
      (after 32 0x340 full).cend = 3 := by decide
theorem test_take_bounds :
    (after 32 0x40 full).status = 0xAF ∧ (after 32 0x40140 State.reset).status = 0x12F := by decide
theorem test_illegal : (after 32 0x10C30 State.reset).status = 0x11F := by decide
theorem test_faulted_ignores : (after 32 0x10 faulted).status = 0x13F := by decide
theorem test_reset_status : State.reset.status = 0x100 := by decide
theorem test_listing :
    listing (.take 10) = "TAKE 10" ∧ listingEncoding (.take 10) = "00000A40" := by decide

/-! ## Witnesses: the hypotheses of each statement, met together -/

/-- A one-command host turn. -/
def hostAt (s : State) (cw : Word) : State := { s with turns := [.host], hostLine := [⟨cw, 0⟩] }

/-- A one-byte RX turn. -/
def rxAt (s : State) (b : Byte) : State := { s with turns := [.rx], rxLine := [b] }

theorem witness_StepRunsDecodedCommand :
    (hostAt State.reset 0x12).turns = .host :: [] ∧ (hostAt State.reset 0x12).hostLine = ⟨0x12, 0⟩ :: [] ∧
      decode (.command ⟨0x12, 0⟩) = .legal .crccalc := by decide
theorem witness_StepOffersReceivedByte :
    (rxAt State.reset 0xFF).turns = .rx :: [] ∧ (rxAt State.reset 0xFF).rxLine = 0xFF :: [] := by decide
theorem witness_IllegalWordRaisesFIllegal :
    (hostAt State.reset 0x01000020).turns = .host :: [] ∧
      (hostAt State.reset 0x01000020).hostLine = ⟨0x01000020, 0⟩ :: [] ∧
      IllegalWord 0x01000020 ∧ (hostAt State.reset 0x01000020).fault = false := by decide
theorem witness_FaultedBlock_commands :
    (hostAt faulted 0x10).fault = true ∧ (hostAt faulted 0x10).turns = .host :: [] ∧
      (hostAt faulted 0x10).hostLine = ⟨0x10, 0⟩ :: [] := by decide
theorem witness_FaultedBlock_bytes :
    (rxAt { full with fault := true, rxbuf := [1, 2, 3] } 9).fault = true ∧
      (rxAt { full with fault := true, rxbuf := [1, 2, 3] } 9).turns = .rx :: [] ∧
      (rxAt { full with fault := true, rxbuf := [1, 2, 3] } 9).rxLine = 9 :: [] ∧
      ∀ cap, (rxAt { full with fault := true, rxbuf := [1, 2, 3] } 9).params.bufCap = some cap →
        (rxAt { full with fault := true, rxbuf := [1, 2, 3] } 9).rxcnt < cap := by
  refine ⟨by decide, by decide, by decide, fun cap h => ?_⟩
  have hc : 4 = cap := by injection h
  subst hc
  decide
theorem witness_ResetTransition : ({ faulted with turns := [.reset] } : State).turns = .reset :: [] := by
  decide
theorem witness_EveryStepKeepsTheStoreBounds :
    ({ full with turns := [.rx] } : State).StoresOk ∧
      ∃ t, step { full with turns := [.rx] } = .next t := ⟨by decide, _, rfl⟩
theorem witness_EveryStepKeepsTheFaultRegisters :
    ({ faulted with turns := [.host] } : State).FaultRegsOk ∧
      ∃ t, step { faulted with turns := [.host] } = .next t := ⟨by decide, _, rfl⟩
theorem witness_FaultIsStickyUntilReset :
    (rxAt faulted 1).fault = true ∧ (rxAt faulted 1).NoReset := by decide
theorem witness_NoStepWritesTheParameters : ∃ t, step (rxAt full 1) = .next t := ⟨_, rfl⟩
theorem witness_StepStops_idle :
    ({ State.reset with turns := [.host] } : State).hostLine = [] ∧
      ({ State.reset with turns := [.rx] } : State).rxLine = [] := by decide
theorem witness_RegistersWritten :
    ∃ t, exec .decU16 (framed [1, 0]) = .next t ∧ t.res ≠ State.reset.res ∧ t.raw ≠ State.reset.raw ∧
      t.cur ≠ State.reset.cur := ⟨_, rfl, by decide, by decide, by decide⟩
theorem witness_RegistersWritten_stores :
    (∃ t, exec (.take 3) full = .next t ∧ t.frame ≠ full.frame ∧ t.rxbuf ≠ full.rxbuf ∧
      t.cend ≠ full.cend) ∧ ∃ t, exec (.crcupd 1) full = .next t ∧ t.crcacc ≠ full.crcacc :=
  ⟨⟨_, rfl, by decide, by decide, by decide⟩, _, rfl, by decide⟩
theorem witness_FaultEntryIsPrecise :
    State.reset.fault = false ∧ (∃ t, exec (.take 0) State.reset = .next t ∧ t.fault = true) ∧
      (∃ t, exec .trim State.reset = .next t ∧ t.fault = true) ∧
      (∃ t, exec .decBool State.reset = .next t ∧ t.fault = true) ∧
      ∃ t, exec (.decUnk 12) State.reset = .next t ∧ t.fault = true :=
  ⟨rfl, ⟨_, rfl, by decide⟩, ⟨_, rfl, by decide⟩, ⟨_, rfl, by decide⟩, ⟨_, rfl, by decide⟩⟩
theorem witness_DecodeInvertsEncode : Instr.wf (.decUnk 255) = true := by decide
theorem witness_EncodeInvertsDecode_other :
    decode (.command ⟨0x00000010, 5⟩) = .legal .crcinit ∧
      ∀ off size v, Instr.crcinit ≠ .xbits off size v := ⟨by decide, by intros; simp⟩
theorem witness_EncodeInvertsDecode : decode (.command ⟨0x00FFFF20, 5⟩) = .legal (.xbits 255 255 5) := by
  decide
theorem witness_VerifyShort : ([0xFF] : List Byte).length < 2 := by decide
theorem witness_ResidueIsZero : 2 ≤ ([0xFF, 0xFF] : List Byte).length := by decide
theorem witness_SingleBitFlip :
    3 < ([0x01, 0x18, 0x00, 0x2A] : List Byte).length ∧ 7 < 8 ∧
      verify [0x01, 0x18, 0x00, 0x2A] = true := by decide
/-- Also the witness of every statement whose one hypothesis is `FAULT = 0`. -/
theorem witness_unfaulted : State.reset.fault = false := by decide
theorem witness_CrcvfyComparesAndRecords :
    (framed [0xFF]).fault = false ∧ (framed [0xFF]).frame.length < 2 ∧ (framed [0xFF, 0xFF]).fault = false ∧
      2 ≤ (framed [0xFF, 0xFF]).frame.length := by decide
theorem witness_CrcvfyOkExactlyWhenCrccalcIsZero :
    (framed [0xFF, 0xFF]).fault = false ∧ 2 ≤ (framed [0xFF, 0xFF]).frame.length := by decide
theorem witness_ExtractBitsNeverWraps :
    2 ^ 64 - 1 < 2 ^ 64 ∧ 64 ≤ 64 ∧ 64 < 63 + 2 ∧ (2 : Nat) ≠ 0 := by decide
theorem witness_DecReads :
    (framed [1, 2, 3, 4, 5, 6, 7, 8]).fault = false ∧
      8 = width (framed [1, 2, 3, 4, 5, 6, 7, 8]).params .f64 ∧
      (8 : Int) ≤ ((framed [1, 2, 3, 4, 5, 6, 7, 8]).cend.toNat : Int) -
        (framed [1, 2, 3, 4, 5, 6, 7, 8]).cur.toNat := by decide
theorem witness_DecUnderrun :
    (framed [1]).fault = false ∧
      ((framed [1]).cend.toNat : Int) - (framed [1]).cur.toNat < width (framed [1]).params .u16 := by decide
theorem witness_DecBool :
    (framed [2]).fault = false ∧ (framed [2]).cur.toNat < (framed [2]).cend.toNat ∧
      (framed [2]).frame[(framed [2]).cur.toNat]? = some 2 := by decide
theorem witness_IntegerDecodesUpTo32Bits :
    (framed [1, 2, 3, 0x80]).fault = false ∧ 4 = width (framed [1, 2, 3, 0x80]).params .i32 ∧
      (4 : Int) ≤ ((framed [1, 2, 3, 0x80]).cend.toNat : Int) - (framed [1, 2, 3, 0x80]).cur.toNat := by
  decide
theorem witness_F64OfInt : -(2 ^ 64 : Int) ≤ 2 ^ 64 ∧ (2 ^ 64 : Int) ≤ 2 ^ 64 := by decide
theorem witness_DecF32 :
    (framed [0, 0, 0xC0, 0x7F]).fault = false ∧
      (4 : Int) ≤ ((framed [0, 0, 0xC0, 0x7F]).cend.toNat : Int) - (framed [0, 0, 0xC0, 0x7F]).cur.toNat ∧
      (0x7FC00000 : Word) = BitVec.ofNat 32
        (le (((framed [0, 0, 0xC0, 0x7F]).frame.drop (framed [0, 0, 0xC0, 0x7F]).cur.toNat).take 4)) ∧
      isNaN32 0x7FC00000 = true ∧
      (0xFF800000 : Word).extractLsb' 23 8 = 255 ∧ (0xFF800000 : Word).extractLsb' 0 23 = 0 ∧
      (0x807FFFFF : Word).extractLsb' 23 8 ≠ 255 := by decide
theorem witness_DecF64 :
    (framed [1, 2, 3, 4, 5, 6, 7, 8]).cend.toNat ≤ (framed [1, 2, 3, 4, 5, 6, 7, 8]).frame.length ∧
      (8 : Int) ≤ ((framed [1, 2, 3, 4, 5, 6, 7, 8]).cend.toNat : Int) -
        (framed [1, 2, 3, 4, 5, 6, 7, 8]).cur.toNat := by decide
theorem witness_UnknownType :
    12 ≤ (12 : Byte).toNat ∧ State.reset.params.unknownEtype = .reject ∧
      (lenient [1, 2, 3, 4]).fault = false ∧ (lenient [1, 2, 3, 4]).params.unknownEtype = .defaultI32 ∧
      (4 : Int) ≤ ((lenient [1, 2, 3, 4]).cend.toNat : Int) - (lenient [1, 2, 3, 4]).cur.toNat ∧
      ((lenient [1, 2, 3]).cend.toNat : Int) - (lenient [1, 2, 3]).cur.toNat < 4 := by decide
theorem witness_Trim : 2 ≤ (framed [1, 2]).frame.length ∧ (framed [1]).frame.length < 2 := by decide
theorem witness_Take :
    full.fault = false ∧ full.params.maxl < (4 : Half).toNat ∧ (3 : Half) ≠ 0 ∧
      (3 : Half).toNat ≤ full.params.maxl ∧ (3 : Half).toNat ≤ full.rxbuf.length ∧
      ({ full with rxbuf := [1, 2] } : State).rxbuf.length < (3 : Half).toNat := by decide
theorem witness_PushAppends :
    ∀ cap, ({ full with rxbuf := [1, 2, 3] } : State).params.bufCap = some cap →
      ({ full with rxbuf := [1, 2, 3] } : State).rxcnt < cap := by
  intro cap h
  have hc : 4 = cap := by injection h
  subst hc
  decide
theorem witness_FullBuffer :
    full.params.bufCap = some 4 ∧ 4 ≤ full.rxcnt ∧ (rxAt full 9).turns = .rx :: [] ∧
      (rxAt full 9).rxLine = 9 :: [] := by decide
theorem witness_FullBufferServes :
    full.fault = false ∧ full.params.Wf ∧ full.params.bufCap = some 4 ∧ full.rxcnt = 4 ∧ (3 : Half) ≠ 0 ∧
      (3 : Half).toNat ≤ full.params.maxl := by decide
theorem witness_RunsConserve : (rxAt full 9).NoReset := by decide
/-- The same stream, once buffered and once still to be pushed. -/
theorem witness_FramesDoNotDepend :
    (buffered [1, 2]).NoReset ∧ ({ State.reset with rxLine := [1, 2] } : State).NoReset ∧
      (buffered [1, 2]).rxbuf ++ (buffered [1, 2]).rxLine =
        ({ State.reset with rxLine := [1, 2] } : State).rxbuf ++
          ({ State.reset with rxLine := [1, 2] } : State).rxLine ∧
      (history 1 { buffered [1, 2] with turns := [.host], hostLine := [⟨0x240, 0⟩] }).2 = [[1, 2]] ∧
      (history 3 { State.reset with
        rxLine := [1, 2], turns := [.rx, .rx, .host], hostLine := [⟨0x240, 0⟩] }).2 = [[1, 2]] := by decide
theorem witness_SplitFrame :
    State.reset.params.Wf ∧ State.reset.rxbuf = [] ∧ ([1, 2, 3] : List Byte).length < (10 : Half).toNat ∧
      ([1, 2, 3] : List Byte).length + ([4, 5, 6, 7, 8, 9, 10] : List Byte).length = (10 : Half).toNat ∧
      (10 : Half).toNat ≤ State.reset.params.maxl := by decide
/-- Channels `[U16, F32]` of OSC's decode example (program P1). -/
def twoChannels : List Channel := [⟨0, .u16, 0, 0⟩, ⟨0, .f32, 0, 0⟩]
/-- The frame of program P1, buffered. -/
def goodFrame : State := buffered [0x01, 0x00, 0x00, 0x00, 0x80, 0x3F, 0x20, 0x1A]
/-- The first frame of program P4, buffered. -/
def badFrame : State := buffered [0x01, 0x00, 0x00, 0x00, 0x81, 0x3F, 0x20, 0x1A]
/-- The frame of program P1, its last byte still to be delivered. -/
def lateFrame : State :=
  { buffered [0x01, 0x00, 0x00, 0x00, 0x80, 0x3F, 0x20] with rxLine := [0x1A] }
/-- The channels of program P7, both bit fields. -/
def fieldChannels : List Channel := [⟨0, .u8, 2, 3⟩, ⟨0, .i16, 4, 8⟩]
/-- The frame of program P7, buffered. -/
def fieldFrame : State := buffered [0xB4, 0x9C, 0xFF, 0x18, 0xA6]
/-- A frame length beyond TAKE's 16 bits. -/
def manyChannels : List Channel := List.replicate 8192 ⟨0, .f64, 0, 0⟩

/-- Program P7: 5.0 and 249.0, cut from RAW and unsigned. -/
theorem test_capture_fields :
    (captureFrame fieldChannels [0] (fun _ => 0) fieldFrame).2 =
      .emitted [0x4014000000000000, 0x406F200000000000] := by decide
theorem test_capture_bool_field :
    (captureFrame [⟨0, .bool, 1, 1⟩] [3] (fun _ => 1) { State.reset with rxLine := frameOf [0x02] }).2 =
      .emitted [0x3FF0000000000000] := by decide
/-- The first TAKE is INSUFFICIENT, the second gives the frame; and a wait that ends before loses no byte. -/
theorem test_poll_repeats :
    (pollTake 8 [0, 1] lateFrame).2 = .taken ∧ (pollTake 8 [0, 1] lateFrame).1.frame = goodFrame.rxbuf ∧
      (captureFrame twoChannels [0] (fun _ => 0) lateFrame).2 = .stopped ∧
      (captureFrame twoChannels [0] (fun _ => 0) lateFrame).1 = { lateFrame with st := 1 } := by decide
/-- Asked for above 65535 or for 0, TAKE faults F_LEN (R171). -/
theorem test_length_out_of_range :
    takeLength 65538 = 0 ∧ (pollTake (takeLength 65538) [0] goodFrame).2 = .faulted ∧
      (pollTake (takeLength 65538) [0] goodFrame).1.fcause = 2 ∧
      (replySequence 0 [0] (fun _ => 0) goodFrame).2 = .blockFault := by decide
/-- Pushes between the commands reach RXBUF and nothing else (R60). -/
theorem test_pushes_between :
    (captureFrame fieldChannels [0] (fun _ => 1) { fieldFrame with rxLine := [1, 2, 3] }).2 =
        .emitted [0x4014000000000000, 0x406F200000000000] ∧
      (captureFrame fieldChannels [0] (fun _ => 1) { fieldFrame with rxLine := [1, 2, 3] }).1.rxbuf =
        [1, 2, 3] ∧
      (trailerSequence [0x01, 0x18] (fun _ => 1) { State.reset with rxLine := [7, 8] }).2 =
        [0x01, 0x18, 0x00, 0x2A] ∧
      (trailerSequence [0x01, 0x18] (fun _ => 1) { State.reset with rxLine := [7, 8] }).1.rxbuf = [7, 8] := by
  decide
theorem test_reply_one_byte : (replySequence 1 [0] (fun _ => 0) goodFrame).2 = .crcFailure := by decide
theorem test_start_request :
    startRequest Config.suggested [⟨0x20000010, .i16, 0, 0⟩, ⟨0x20000014, .f32, 0, 0⟩] =
      [0x01, 0x17, 0x10, 0x00, 0x00, 0x20, 0x02, 0x14, 0x00, 0x00, 0x20, 0x04, 0xDE, 0xC0] := by decide

theorem witness_CaptureDecodes :
    lateFrame.fault = false ∧ lateFrame.params.Wf ∧
      frameLength lateFrame.params twoChannels ≤ lateFrame.params.maxl ∧
      lateFrame.Arrives (frameLength lateFrame.params twoChannels) [0, 1] ∧
      verify (lateFrame.stream.take (frameLength lateFrame.params twoChannels)) = true ∧
      twoChannels[1]? = some ⟨0, .f32, 0, 0⟩ := by decide
theorem witness_CaptureDecodes_fields :
    fieldFrame.fault = false ∧ fieldFrame.params.Wf ∧
      frameLength fieldFrame.params fieldChannels ≤ fieldFrame.params.maxl ∧
      fieldFrame.Arrives (frameLength fieldFrame.params fieldChannels) [0] ∧
      verify (fieldFrame.stream.take (frameLength fieldFrame.params fieldChannels)) = true ∧
      fieldChannels[1]? = some ⟨0, .i16, 4, 8⟩ ∧ (8 : Byte) ≠ 0 := by decide
theorem witness_CaptureDecodes_bool :
    (buffered (frameOf [2])).Arrives (frameLength State.reset.params [⟨0, .bool, 1, 1⟩]) [0] ∧
      verify ((buffered (frameOf [2])).stream.take (frameLength State.reset.params [⟨0, .bool, 1, 1⟩])) =
        true ∧ ([⟨0, .bool, 1, 1⟩] : List Channel)[0]? = some ⟨0, .bool, 1, 1⟩ := by decide
theorem witness_CaptureOfABadFrame :
    badFrame.fault = false ∧ badFrame.params.Wf ∧
      frameLength badFrame.params twoChannels ≤ badFrame.params.maxl ∧
      badFrame.Arrives (frameLength badFrame.params twoChannels) [0] ∧
      verify (badFrame.stream.take (frameLength badFrame.params twoChannels)) = false := by decide
theorem witness_CaptureWaits_poll :
    lateFrame.fault = false ∧ lateFrame.params.Wf ∧ (8 : Half) ≠ 0 ∧
      (8 : Half).toNat ≤ lateFrame.params.maxl ∧ lateFrame.Arrives (8 : Half).toNat [0, 1] := by decide
theorem witness_CaptureWaits_stopped :
    frameLength lateFrame.params twoChannels ≤ lateFrame.params.maxl ∧
      ¬ lateFrame.Arrives (frameLength lateFrame.params twoChannels) [0] ∧
      ¬ lateFrame.Arrives (frameLength lateFrame.params twoChannels) [] := by decide
theorem witness_CaptureWaits_length :
    goodFrame.fault = false ∧ goodFrame.params.maxl < frameLength goodFrame.params manyChannels ∧
      65535 < frameLength goodFrame.params manyChannels := by
  have hn : ∀ n, frameLength goodFrame.params (List.replicate n ⟨0, .f64, 0, 0⟩) = n * 8 + 2 := by
    simp [frameLength, payloadLength, width]
  have h : frameLength goodFrame.params manyChannels = 65538 := hn 8192
  rw [h]
  decide
theorem witness_Reply :
    goodFrame.fault = false ∧ goodFrame.params.Wf ∧ 8 ≤ goodFrame.params.maxl ∧ goodFrame.Arrives 8 [0] ∧
      verify (goodFrame.stream.take 8) = true := by decide
theorem witness_Reply_failing :
    badFrame.fault = false ∧ badFrame.params.Wf ∧ 8 ≤ badFrame.params.maxl ∧ badFrame.Arrives 8 [0] ∧
      verify (badFrame.stream.take 8) = false ∧ badFrame.Arrives 1 [0] := by decide
theorem witness_Reply_stopped : 8 ≤ lateFrame.params.maxl ∧ ¬ lateFrame.Arrives 8 [0] := by decide
theorem witness_Reply_length : goodFrame.fault = false ∧ goodFrame.params.maxl < 65536 := by decide
theorem witness_Requests :
    ([⟨0x20000010, .i16, 0, 0⟩] : List Channel)[0]? = some ⟨0x20000010, .i16, 0, 0⟩ := by decide
theorem witness_ObservationPort : 9 ≤ 9 := by decide
theorem witness_FrameReadPort : 0 < (framed [7]).frame.length ∧ (framed [7]).frame.length ≤ 1 := by decide

end Sys2Proof.Tests
end

section
/-! PROOF. The parameters stay (00_scope.md R8), and the integer conversion rounds to nearest, ties to the even
fraction (R13). -/

namespace Sys2Proof.Machine

/-! ## No operation writes the parameters -/

@[simp] theorem takeFrame_params (n : Nat) (cw : Word) (s : State) : (takeFrame n cw s).params = s.params := by
  obtain ⟨-, h⟩ | ⟨-, -, -, h⟩ | ⟨-, -, -, h⟩ := takeFrame_cases n cw s <;> simp [h]

@[simp] theorem decodeElement_params (e : EType) (cw : Word) (s : State) :
    (decodeElement e cw s).params = s.params := by
  obtain ⟨-, h⟩ | ⟨-, h⟩ := decodeElement_cases e cw s <;> simp [h]

@[simp] theorem decodeUnknown_params (cw : Word) (s : State) : (decodeUnknown cw s).params = s.params := by
  obtain ⟨-, h⟩ | ⟨-, h⟩ := decodeUnknown_cases cw s <;> simp [h]

@[simp] theorem trimWindow_params (cw : Word) (s : State) : (trimWindow cw s).params = s.params := by
  obtain ⟨-, h⟩ | ⟨-, h⟩ := trimWindow_cases cw s <;> simp [h]

@[simp] theorem verifyFrame_params (s : State) : (verifyFrame s).params = s.params := by
  obtain ⟨-, h⟩ | ⟨-, h⟩ := verifyFrame_cases s <;> simp [h]

/-- A command whose effect keeps the parameters keeps them, ignored or not. -/
theorem onCommandPort_params {effect : State → State} {s t : State}
    (heff : (effect s).params = s.params) (h : onCommandPort effect s = .next t) : t.params = s.params := by
  obtain ⟨-, rfl⟩ | ⟨-, rfl⟩ := onCommandPort_next h
  · rfl
  · exact heff

theorem exec_params {i : Instr} {s t : State} (h : exec i s = .next t) : t.params = s.params := by
  cases i with
  | push b =>
    obtain rfl : receiveByte b s = t := Host.Outcome.next.inj h
    exact receiveByte_params s b
  | xbits off size value =>
    simp only [exec, execXbits] at h
    exact onCommandPort_params rfl h
  | crcinit | crcupd _ | crccalc | crcvfy | trim | take _ | decUnk _
  | decBool | decChar | decI8 | decU8 | decI16 | decU16
  | decI32 | decU32 | decI64 | decU64 | decF32 | decF64 =>
    exact onCommandPort_params (by simp) h

/-- Settles O11, by the six things a step can be. -/
theorem noStepWritesTheParameters : Obligations.NoStepWritesTheParameters := by
  intro s t h
  obtain ⟨-, hend⟩ | ⟨a, ts, -, hidle, -⟩ | ⟨ts, c, cs, i, -, -, -, hlegal⟩ | ⟨ts, c, cs, why, -, -, -, hillegal⟩ |
    ⟨ts, b, bs, -, -, hpush⟩ | ⟨ts, -, hreset⟩ := step_cases s
  · rw [hend] at h; cases h
  · rw [hidle] at h; cases h; rfl
  · exact (exec_params (hlegal.symm.trans h)).trans rfl
  · exact (onCommandPort_params (raiseFault_params ..) (hillegal.symm.trans h)).trans rfl
  · exact (exec_params (hpush.symm.trans h)).trans rfl
  · rw [hreset] at h; cases h; rfl

/-! ## How a double reads as a number -/

/-- The magnitude that the low 63 bits of a double, as a number, read as (R13). -/
def magnitude64 (p : Nat) : ℚ :=
  if p / 2 ^ 52 = 0 then (p : ℚ) / 2 ^ 1074
  else ((2 ^ 52 + p % 2 ^ 52 : Nat) : ℚ) * 2 ^ (p / 2 ^ 52) / 2 ^ 1075

theorem exponentField_toNat (d : DWord) : (d.extractLsb' 52 11).toNat = d.toNat % 2 ^ 63 / 2 ^ 52 := by
  rw [BitVec.extractLsb'_toNat, Nat.shiftRight_eq_div_pow]
  omega

/-- A double reads as the magnitude of its low 63 bits, negated when bit 63 is set (R13). -/
theorem f64Value_eq (d : DWord) :
    f64Value d = if d.msb then -magnitude64 (d.toNat % 2 ^ 63) else magnitude64 (d.toNat % 2 ^ 63) := by
  have hd := d.isLt
  have hsign : (d.extractLsb' 63 1).toNat = 1 ↔ d.msb = true := by
    rw [BitVec.extractLsb'_toNat, Nat.shiftRight_eq_div_pow, BitVec.msb_eq_decide, decide_eq_true_eq]
    omega
  have hfrac : (d.extractLsb' 0 52).toNat = d.toNat % 2 ^ 63 % 2 ^ 52 := by
    rw [BitVec.extractLsb'_toNat, Nat.shiftRight_zero]
    omega
  have hlow (h0 : d.toNat % 2 ^ 63 / 2 ^ 52 = 0) : d.toNat % 2 ^ 63 % 2 ^ 52 = d.toNat % 2 ^ 63 := by
    omega
  simp only [f64Value, magnitude64, hsign, exponentField_toNat, hfrac]
  by_cases h0 : d.toNat % 2 ^ 63 / 2 ^ 52 = 0
  · simp only [h0, if_true, hlow h0]
  · simp only [h0, if_false]

theorem isFinite64_iff (d : DWord) : isFinite64 d = true ↔ d.toNat % 2 ^ 63 / 2 ^ 52 ≠ 2047 := by
  rw [isFinite64, decide_eq_true_eq, ne_eq, BitVec.toNat_eq, exponentField_toNat]
  rfl

theorem magnitude64_nonneg (p : Nat) : 0 ≤ magnitude64 p := by
  unfold magnitude64
  split <;> positivity

/-- A 53-bit significand added to an exponent field: the carry of its leading bit, or of a round up to `2^53`,
moves the exponent as the value demands. -/
theorem magnitude64_significand {x sig : Nat} (hlo : 2 ^ 52 ≤ sig) (hhi : sig ≤ 2 ^ 53) :
    magnitude64 (x * 2 ^ 52 + sig) = (sig : ℚ) * 2 ^ x / 2 ^ 1074 := by
  have hscale : (2 : ℚ) ^ 1075 = 2 ^ 1074 * 2 := pow_succ _ _
  rw [← mul_div_mul_right _ ((2 : ℚ) ^ 1074) two_ne_zero]
  obtain hlt | rfl := hhi.lt_or_eq
  · have hq : (x * 2 ^ 52 + sig) / 2 ^ 52 = x + 1 := by omega
    have hr : 2 ^ 52 + (x * 2 ^ 52 + sig) % 2 ^ 52 = sig := by omega
    rw [magnitude64, hq, hr, if_neg x.succ_ne_zero, hscale, pow_succ, mul_assoc]
  · have hq : (x * 2 ^ 52 + 2 ^ 53) / 2 ^ 52 = x + 2 := by omega
    have hr : (x * 2 ^ 52 + 2 ^ 53) % 2 ^ 52 = 0 := by omega
    rw [magnitude64, hq, hr, if_neg (by omega), hscale]
    exact congrArg (· / _) (by push_cast; ring)

/-- Every magnitude from `2^(52+k)` on is a multiple of `2^k`. -/
theorem magnitude64_lt_or_multiple (p k : Nat) :
    magnitude64 p < 2 ^ (52 + k) ∨ ∃ z : ℕ, magnitude64 p = (z : ℚ) * 2 ^ k := by
  have hf : p % 2 ^ 52 < 2 ^ 52 := Nat.mod_lt _ (by norm_num)
  by_cases h0 : p / 2 ^ 52 = 0
  · left
    have hp : (p : ℚ) < 2 ^ 52 := by exact_mod_cast (show p < 2 ^ 52 by omega)
    calc magnitude64 p = (p : ℚ) / 2 ^ 1074 := if_pos h0
      _ ≤ p := div_le_self (by positivity) (one_le_pow₀ (by norm_num))
      _ < 2 ^ 52 := hp
      _ ≤ 2 ^ (52 + k) := pow_le_pow_right₀ (by norm_num) (by omega)
  · have hm : magnitude64 p = ((2 ^ 52 + p % 2 ^ 52 : Nat) : ℚ) * 2 ^ (p / 2 ^ 52) / 2 ^ 1075 := if_neg h0
    obtain hx | hx := Nat.lt_or_ge (p / 2 ^ 52) (1075 + k)
    · left
      have hsig : ((2 ^ 52 + p % 2 ^ 52 : Nat) : ℚ) < 2 ^ 53 := by
        exact_mod_cast (show 2 ^ 52 + p % 2 ^ 52 < 2 ^ 53 by omega)
      have hpow : (2 : ℚ) ^ (p / 2 ^ 52) ≤ 2 ^ (1074 + k) := pow_le_pow_right₀ (by norm_num) (by omega)
      rw [hm, div_lt_iff₀ (by positivity)]
      calc ((2 ^ 52 + p % 2 ^ 52 : Nat) : ℚ) * 2 ^ (p / 2 ^ 52)
          < 2 ^ 53 * 2 ^ (1074 + k) := mul_lt_mul hsig hpow (by positivity) (by positivity)
        _ = 2 ^ (52 + k) * 2 ^ 1075 := by
          rw [← pow_add, ← pow_add, show 53 + (1074 + k) = 52 + k + 1075 by omega]
    · right
      obtain ⟨j, hj⟩ := Nat.exists_eq_add_of_le hx
      refine ⟨(2 ^ 52 + p % 2 ^ 52) * 2 ^ j, ?_⟩
      rw [hm, hj, add_assoc, add_comm 1075, pow_add _ _ 1075, ← mul_assoc,
        mul_div_cancel_right₀ _ (by positivity)]
      push_cast
      ring

/-- Every double of magnitude `2^(52+k)` or more is a multiple of `2^k`. -/
theorem f64Value_lt_or_multiple (d : DWord) (k : Nat) :
    |f64Value d| < 2 ^ (52 + k) ∨ ∃ z : ℤ, f64Value d = (z : ℚ) * 2 ^ k := by
  have habs : |f64Value d| = magnitude64 (d.toNat % 2 ^ 63) := by
    rw [f64Value_eq]
    split <;> simp [abs_of_nonneg (magnitude64_nonneg _)]
  obtain h | ⟨z, h⟩ := magnitude64_lt_or_multiple (d.toNat % 2 ^ 63) k
  · exact .inl (habs.trans_lt h)
  · right
    rw [f64Value_eq, h]
    split
    · exact ⟨-z, by simp⟩
    · exact ⟨z, by simp⟩

/-! ## Nearest, ties to even -/

/-- A double that reads as the integer itself is the nearest one. -/
theorem nearestEven_of_exact {n : ℤ} {d : DWord} (hfin : isFinite64 d = true) (hval : f64Value d = n) :
    NearestEven n d := by
  refine ⟨hfin, fun e _ => ?_⟩
  have h0 : |f64Value d - n| = 0 := by rw [hval, sub_self, abs_zero]
  refine ⟨h0 ▸ abs_nonneg _, fun heq hne => absurd ?_ hne⟩
  rw [hval]
  exact sub_eq_zero.1 (abs_eq_zero.1 (heq.trans h0))

/-- `q * p` is within half of `p` from `n`: no multiple of `p` is nearer, and another one is as near only when
that distance is exactly half. -/
theorem multiple_nearest {p n : ℚ} {q z : ℤ} (hp : 0 < p) (hhalf : 2 * |q * p - n| ≤ p) :
    |q * p - n| ≤ |z * p - n| ∧ (|z * p - n| = |q * p - n| → z ≠ q → 2 * |q * p - n| = p) := by
  obtain rfl | hne := eq_or_ne z q
  · exact ⟨le_rfl, fun _ h => absurd rfl h⟩
  have hone : (1 : ℚ) ≤ |(z : ℚ) - q| := by exact_mod_cast Int.one_le_abs (sub_ne_zero.2 hne)
  have hgap : p ≤ |z * p - n| + |q * p - n| :=
    calc p ≤ |(z : ℚ) - q| * p := le_mul_of_one_le_left hp.le hone
      _ = |z * p - q * p| := by rw [← sub_mul, abs_mul, abs_of_pos hp]
      _ ≤ |z * p - n| + |n - q * p| := abs_sub_le _ _ _
      _ = |z * p - n| + |q * p - n| := by rw [abs_sub_comm n]
  exact ⟨by linarith, fun heq _ => by linarith⟩

/-- An integer of magnitude `2^(52+k)` or more has as its nearest double a multiple of `2^k` within half a step
of it. -/
theorem nearestEven_of_multiple {n q : ℤ} {d : DWord} {k : Nat} (hfin : isFinite64 d = true)
    (hval : f64Value d = (q : ℚ) * 2 ^ k) (hn : (2 : ℚ) ^ (52 + k) ≤ |(n : ℚ)|)
    (hhalf : 2 * |(q : ℚ) * 2 ^ k - n| ≤ 2 ^ k)
    (htie : 2 * |(q : ℚ) * 2 ^ k - n| = 2 ^ k → d.getLsbD 0 = false) : NearestEven n d := by
  have hp : (0 : ℚ) < 2 ^ k := by positivity
  have hleast : ((2 ^ 52 : ℤ) : ℚ) * 2 ^ k = 2 ^ (52 + k) := by rw [pow_add]; norm_num
  refine ⟨hfin, fun e _ => ?_⟩
  rw [hval]
  obtain hsmall | ⟨z, hz⟩ := f64Value_lt_or_multiple e k
  · -- the multiple of least such magnitude lies between `e` and `n`
    obtain ⟨w, hw⟩ : ∃ w : ℤ, |(w : ℚ) * 2 ^ k - n| = |(n : ℚ)| - 2 ^ (52 + k) := by
      obtain h0 | h0 := le_total 0 (n : ℚ)
      · rw [abs_of_nonneg h0] at hn ⊢
        exact ⟨2 ^ 52, by rw [hleast, abs_sub_comm, abs_of_nonneg (sub_nonneg.2 hn)]⟩
      · rw [abs_of_nonpos h0] at hn ⊢
        exact ⟨-2 ^ 52, by rw [Int.cast_neg, neg_mul, hleast, neg_sub_left, abs_neg,
          abs_of_nonpos (by linarith)]; ring⟩
    have hfar : |(q : ℚ) * 2 ^ k - n| < |f64Value e - n| :=
      calc |(q : ℚ) * 2 ^ k - n| ≤ |(w : ℚ) * 2 ^ k - n| := (multiple_nearest hp hhalf).1
        _ = |(n : ℚ)| - 2 ^ (52 + k) := hw
        _ < |(n : ℚ)| - |f64Value e| := sub_lt_sub_left hsmall _
        _ ≤ |(n : ℚ) - f64Value e| := abs_sub_abs_le_abs_sub _ _
        _ = |f64Value e - n| := abs_sub_comm _ _
    exact ⟨hfar.le, fun heq => absurd heq hfar.ne'⟩
  · rw [hz]
    obtain ⟨hle, heven⟩ := multiple_nearest (z := z) hp hhalf
    exact ⟨hle, fun heq hne => htie (heven heq fun h => hne (by rw [h]))⟩

/-! ## Rounding of natural numbers -/

/-- Rounding goes up past the half and, on the half, from an odd quotient; else down. -/
theorem roundShift_cases (m k : Nat) :
    ((2 ^ k < 2 * (m % 2 ^ k) ∨ 2 * (m % 2 ^ k) = 2 ^ k ∧ m / 2 ^ k % 2 = 1) ∧
        roundShift m k = m / 2 ^ k + 1) ∨
      (¬(2 ^ k < 2 * (m % 2 ^ k) ∨ 2 * (m % 2 ^ k) = 2 ^ k ∧ m / 2 ^ k % 2 = 1) ∧
        roundShift m k = m / 2 ^ k) := by
  by_cases h : 2 ^ k < 2 * (m % 2 ^ k) ∨ 2 * (m % 2 ^ k) = 2 ^ k ∧ m / 2 ^ k % 2 = 1
  · exact .inl ⟨h, if_pos h⟩
  · exact .inr ⟨h, if_neg h⟩

/-- Rounding by `2^k` misses by at most half of `2^k`, and on a miss of exactly half the result is even. -/
theorem roundShift_spec (m k : Nat) :
    2 * |(roundShift m k : ℤ) * 2 ^ k - m| ≤ 2 ^ k ∧
      (2 * |(roundShift m k : ℤ) * 2 ^ k - m| = 2 ^ k → roundShift m k % 2 = 0) := by
  have hdiv : ((m / 2 ^ k : ℕ) : ℤ) * 2 ^ k + (m % 2 ^ k : ℕ) = m := by
    exact_mod_cast Nat.div_add_mod' m (2 ^ k)
  have hr : ((m % 2 ^ k : ℕ) : ℤ) < 2 ^ k := by exact_mod_cast Nat.mod_lt m (by positivity)
  obtain ⟨h, hq⟩ | ⟨h, hq⟩ := roundShift_cases m k <;> rw [hq]
  · have hup : (2 : ℤ) ^ k < 2 * (m % 2 ^ k : ℕ) ∨
        2 * ((m % 2 ^ k : ℕ) : ℤ) = 2 ^ k ∧ m / 2 ^ k % 2 = 1 := by
      exact_mod_cast h
    have hdist : |((m / 2 ^ k + 1 : ℕ) : ℤ) * 2 ^ k - m| = 2 ^ k - (m % 2 ^ k : ℕ) := by
      rw [← abs_of_pos (sub_pos.2 hr)]
      congr 1
      push_cast at hdiv ⊢
      linarith
    rw [hdist]
    omega
  · have hdown : ¬((2 : ℤ) ^ k < 2 * (m % 2 ^ k : ℕ) ∨
        2 * ((m % 2 ^ k : ℕ) : ℤ) = 2 ^ k ∧ m / 2 ^ k % 2 = 1) := by
      exact_mod_cast h
    have hdist : |((m / 2 ^ k : ℕ) : ℤ) * 2 ^ k - m| = (m % 2 ^ k : ℕ) := by
      rw [abs_sub_comm, ← abs_of_nonneg (Int.natCast_nonneg (m % 2 ^ k))]
      congr 1
      linarith
    rw [hdist]
    omega

/-- The significand of a positive number has its leading bit at bit 52, or is `2^53` after a round up. -/
theorem significand_bounds {m : Nat} (hm : m ≠ 0) :
    2 ^ 52 ≤ significand m m.log2 ∧ significand m m.log2 ≤ 2 ^ 53 := by
  have hlo := Nat.log2_self_le hm
  have hhi := Nat.lt_log2_self (n := m)
  unfold significand
  split_ifs with he
  · have h52 : 2 ^ m.log2 * 2 ^ (52 - m.log2) = 2 ^ 52 := by rw [← pow_add, Nat.add_sub_cancel' he]
    have h53 : 2 ^ (m.log2 + 1) * 2 ^ (52 - m.log2) = 2 ^ 53 := by rw [pow_succ', mul_assoc, h52]; rfl
    exact ⟨h52 ▸ Nat.mul_le_mul_right _ hlo, h53 ▸ Nat.mul_le_mul_right _ hhi.le⟩
  · obtain ⟨k, hk⟩ := Nat.exists_eq_add_of_le (not_le.1 he).le
    rw [hk, pow_add] at hlo
    rw [hk, add_right_comm, pow_add] at hhi
    have hq : 2 ^ 52 ≤ m / 2 ^ k := (Nat.le_div_iff_mul_le (by positivity)).2 hlo
    have hq' : m / 2 ^ k < 2 ^ 53 := (Nat.div_lt_iff_lt_mul (by positivity)).2 hhi
    rw [hk, Nat.add_sub_cancel_left]
    obtain ⟨-, h⟩ | ⟨-, h⟩ := roundShift_cases m k <;> omega

/-- Above 53 bits the significand is the number rounded by the bits too many. -/
theorem significand_of_log2_eq {m k : Nat} (hk : m.log2 = 52 + k) (hk0 : k ≠ 0) :
    significand m m.log2 = roundShift m k := by
  rw [significand, if_neg (by omega), hk, Nat.add_sub_cancel_left]

/-! ## The pattern of an integer -/

theorem log2_le_of_le_two_pow {m : Nat} (hm : m ≠ 0) (hle : m ≤ 2 ^ 64) : m.log2 ≤ 64 := by
  have h := (Nat.log2_self_le hm).trans hle
  exact (Nat.pow_le_pow_iff_right (by norm_num)).1 h

theorem f64OfNat_toNat {m : Nat} (hm : m ≠ 0) (hle : m ≤ 2 ^ 64) :
    (f64OfNat m).toNat = (m.log2 + 1022) * 2 ^ 52 + significand m m.log2 := by
  have := log2_le_of_le_two_pow hm hle
  have := (significand_bounds hm).2
  rw [f64OfNat, if_neg hm, BitVec.toNat_ofNat]
  exact Nat.mod_eq_of_lt (by omega)

/-- The pattern of a magnitude that the block converts is below that of infinity, so finite with bit 63 clear. -/
theorem f64OfNat_toNat_lt {m : Nat} (hle : m ≤ 2 ^ 64) : (f64OfNat m).toNat < 2047 * 2 ^ 52 := by
  obtain rfl | hm := eq_or_ne m 0
  · decide
  have := log2_le_of_le_two_pow hm hle
  have := (significand_bounds hm).2
  rw [f64OfNat_toNat hm hle]
  omega

/-- The low 63 bits of the pattern of an integer are those of its magnitude's. -/
theorem f64OfInt_toNat_mod {n : ℤ} (hle : n.natAbs ≤ 2 ^ 64) :
    (f64OfInt n).toNat % 2 ^ 63 = (f64OfNat n.natAbs).toNat := by
  have hlt := f64OfNat_toNat_lt hle
  unfold f64OfInt
  split_ifs
  · rw [BitVec.toNat_or, Nat.or_mod_two_pow]
    change 0 ||| _ = _
    rw [Nat.zero_or]
    omega
  · omega

theorem f64OfInt_msb {n : ℤ} (hle : n.natAbs ≤ 2 ^ 64) : (f64OfInt n).msb = decide (n < 0) := by
  have hlt := f64OfNat_toNat_lt hle
  have hpos : (f64OfNat n.natAbs).msb = false := by
    rw [BitVec.msb_eq_decide, decide_eq_false_iff_not]
    omega
  unfold f64OfInt
  split_ifs with hn
  · rw [BitVec.msb_or, hpos, decide_eq_true hn]
    rfl
  · rw [hpos, decide_eq_false hn]

theorem isFinite64_f64OfInt {n : ℤ} (hle : n.natAbs ≤ 2 ^ 64) : isFinite64 (f64OfInt n) = true := by
  have hlt := f64OfNat_toNat_lt hle
  rw [isFinite64_iff, f64OfInt_toNat_mod hle]
  omega

/-- The pattern of a nonzero integer reads as its sign times the scaled significand. -/
theorem f64Value_f64OfInt {n : ℤ} (hn : n ≠ 0) (hle : n.natAbs ≤ 2 ^ 64) :
    f64Value (f64OfInt n) =
      n.sign * (significand n.natAbs n.natAbs.log2 * 2 ^ (n.natAbs.log2 + 1022) / 2 ^ 1074) := by
  have hm := Int.natAbs_ne_zero.2 hn
  obtain ⟨hlo, hhi⟩ := significand_bounds hm
  rw [f64Value_eq, f64OfInt_msb hle, f64OfInt_toNat_mod hle, f64OfNat_toNat hm hle,
    magnitude64_significand hlo hhi]
  obtain hneg | hpos := lt_or_gt_of_ne hn
  · simp [hneg, Int.sign_eq_neg_one_of_neg hneg]
  · simp [hpos.le, Int.sign_eq_one_of_pos hpos]

/-- Bit 0 of the pattern is the parity of the significand. -/
theorem f64OfInt_getLsbD_zero {n : ℤ} (hn : n ≠ 0) (hle : n.natAbs ≤ 2 ^ 64)
    (heven : significand n.natAbs n.natAbs.log2 % 2 = 0) : (f64OfInt n).getLsbD 0 = false := by
  have hlow := f64OfInt_toNat_mod hle
  rw [f64OfNat_toNat (Int.natAbs_ne_zero.2 hn) hle] at hlow
  rw [BitVec.getLsbD, Nat.testBit_zero, decide_eq_false_iff_not]
  omega

theorem cast_sign_mul_natAbs (n : ℤ) : (n.sign : ℚ) * n.natAbs = n := by
  rw [← Int.cast_natCast n.natAbs, ← Int.cast_mul, Int.sign_mul_natAbs]

/-- Up to 53 bits the significand is exact, so the pattern reads as the integer (R13). -/
theorem f64Value_f64OfInt_of_log2_le {n : ℤ} (hn : n ≠ 0) (hle : n.natAbs ≤ 2 ^ 64)
    (he : n.natAbs.log2 ≤ 52) : f64Value (f64OfInt n) = n := by
  have hpow : (2 : ℚ) ^ (52 - n.natAbs.log2) * 2 ^ (n.natAbs.log2 + 1022) = 2 ^ 1074 := by
    rw [← pow_add, show 52 - n.natAbs.log2 + (n.natAbs.log2 + 1022) = 1074 by omega]
  rw [f64Value_f64OfInt hn hle, significand, if_pos he]
  push_cast
  rw [mul_assoc _ _ ((2 : ℚ) ^ _), hpow, mul_div_cancel_right₀ _ (by positivity), cast_sign_mul_natAbs]

/-- Above 53 bits the pattern reads as the magnitude rounded by `2^k`, with the sign (R13). -/
theorem f64Value_f64OfInt_of_log2_eq {n : ℤ} {k : Nat} (hn : n ≠ 0) (hle : n.natAbs ≤ 2 ^ 64)
    (hk : n.natAbs.log2 = 52 + k) (hk0 : k ≠ 0) :
    f64Value (f64OfInt n) = ((n.sign * roundShift n.natAbs k : ℤ) : ℚ) * 2 ^ k := by
  rw [f64Value_f64OfInt hn hle, significand_of_log2_eq hk hk0, hk,
    show 52 + k + 1022 = k + 1074 by omega, pow_add, ← mul_assoc,
    mul_div_cancel_right₀ _ (by positivity), ← mul_assoc]
  push_cast
  rfl

/-- The nearest double of an integer of more than 53 bits: its magnitude is rounded by `2^k`, and the distance
does not see the sign. -/
theorem nearestEven_f64OfInt_of_log2_eq {n : ℤ} {k : Nat} (hn : n ≠ 0) (hle : n.natAbs ≤ 2 ^ 64)
    (hk : n.natAbs.log2 = 52 + k) (hk0 : k ≠ 0) : NearestEven n (f64OfInt n) := by
  have hdist : |((n.sign * roundShift n.natAbs k : ℤ) : ℚ) * 2 ^ k - n| =
      ((|(roundShift n.natAbs k : ℤ) * 2 ^ k - n.natAbs| : ℤ) : ℚ) := by
    have hsign : |(n.sign : ℚ)| = 1 := by exact_mod_cast Int.abs_sign_of_ne_zero hn
    have hfactor : ((n.sign * roundShift n.natAbs k : ℤ) : ℚ) * 2 ^ k - n =
        n.sign * (roundShift n.natAbs k * 2 ^ k - (n.natAbs : ℕ)) := by
      rw [mul_sub, cast_sign_mul_natAbs]
      push_cast
      ring
    rw [hfactor, abs_mul, hsign, one_mul]
    norm_cast
  obtain ⟨hhalf, htie⟩ := roundShift_spec n.natAbs k
  refine nearestEven_of_multiple (k := k) (isFinite64_f64OfInt hle)
    (f64Value_f64OfInt_of_log2_eq hn hle hk hk0) ?_ ?_ ?_
  · have h := Nat.log2_self_le (Int.natAbs_ne_zero.2 hn)
    rw [hk] at h
    rw [← Int.cast_abs, ← Nat.cast_natAbs]
    exact_mod_cast h
  · rw [hdist]
    exact_mod_cast hhalf
  · rw [hdist]
    intro heq
    exact f64OfInt_getLsbD_zero hn hle (significand_of_log2_eq hk hk0 ▸ htie (by exact_mod_cast heq))

/-- Settles O39: up to 53 bits the conversion is exact, above it rounds to a multiple of `2^k` that no double
undercuts. -/
theorem f64OfIntRoundsToNearestEven : Obligations.F64OfIntRoundsToNearestEven := by
  refine ⟨rfl, fun n hlo hhi => ?_⟩
  have hle : n.natAbs ≤ 2 ^ 64 := by omega
  obtain rfl | hn := eq_or_ne n 0
  · exact nearestEven_of_exact rfl (by simp [f64Value_eq, f64OfInt, f64OfNat, magnitude64])
  obtain he | he := le_or_gt n.natAbs.log2 52
  · exact nearestEven_of_exact (isFinite64_f64OfInt hle) (f64Value_f64OfInt_of_log2_le hn hle he)
  · obtain ⟨k, hk⟩ := Nat.exists_eq_add_of_le he.le
    exact nearestEven_f64OfInt_of_log2_eq hn hle hk (by omega)

end Sys2Proof.Machine
end

section
/-! PROOF. What one instruction can do, said once as a relation, and the statements about the registers and
stores: their reset values, their invariants, who writes them, and the ports that read them
(10_state.md R20 to R41). -/

namespace Sys2Proof.Machine

/-! ## What one instruction can do -/

/-- The ways one instruction can act on the block (R200, R207): a faulted block ignores it, it raises a fault,
or it completes. `exec_effect` ties the relation to `exec`. -/
inductive Effect (s : State) : Instr → State → Prop where
  | ignored {i : Instr} (hpush : ∀ b, i ≠ .push b) (hfault : s.fault = true) : Effect s i s
  | raised {i : Instr} {cause : BitVec 3} (hpush : ∀ b, i ≠ .push b) (hfault : s.fault = false)
      (hnz : cause ≠ 0) (hle : cause.toNat ≤ 4) : Effect s i (raiseFault cause (encodeCW i) s)
  | checked {i : Instr} {st : BitVec 3} (acc : Half) (hcrc : isCrc i = true) (hfault : s.fault = false)
      (hst : st.toNat ≤ 2) : Effect s i { s with crcacc := acc, st := st }
  | extracted {off size : Byte} {v : DWord} (hfault : s.fault = false) :
      Effect s (.xbits off size v)
        (setStatus stOk { s with res := BitVec.ofNat 64 (extractBits v.toNat off.toNat size.toNat) })
  | decoded {i : Instr} {e : EType} (hdec : isDec i = true) (hfault : s.fault = false)
      (hroom : (width s.params e : Int) ≤ s.windowLeft) : Effect s i (readElement e s)
  | trimmed (hfault : s.fault = false) (hlen : 2 ≤ s.frame.length) :
      Effect s .trim { s with cur := 0, cend := BitVec.ofNat 16 (s.frame.length - 2), st := stOk }
  | waiting {len : Half} (hfault : s.fault = false) : Effect s (.take len) (setStatus stInsufficient s)
  | taken {len : Half} (hfault : s.fault = false) (hmax : len.toNat ≤ s.params.maxl)
      (hcnt : len.toNat ≤ s.rxcnt) : Effect s (.take len) (setStatus stOk (moveFrame len.toNat s))
  | received (b : Byte) : Effect s (.push b) (receiveByte b s)

theorem ne_push_of_isDec {i : Instr} (h : isDec i = true) (b : Byte) : i ≠ .push b := by
  rintro rfl
  simp [isDec] at h

/-- A command has an effect on an unfaulted block and is ignored by a faulted one. -/
theorem effect_of_onCommandPort {i : Instr} {act : State → State} {s t : State} (hpush : ∀ b, i ≠ .push b)
    (hexec : exec i s = onCommandPort act s) (hact : s.fault = false → Effect s i (act s))
    (h : exec i s = .next t) : Effect s i t := by
  obtain ⟨hfault, rfl⟩ | ⟨hfault, rfl⟩ := onCommandPort_next (hexec.symm.trans h)
  · exact .ignored hpush hfault
  · exact hact hfault

theorem decodeElement_effect {i : Instr} {s : State} (e : EType) (hdec : isDec i = true)
    (hfault : s.fault = false) : Effect s i (decodeElement e (encodeCW i) s) := by
  obtain ⟨-, h⟩ | ⟨hroom, h⟩ := decodeElement_cases e (encodeCW i) s <;> rw [h]
  · exact .raised (ne_push_of_isDec hdec) hfault (by decide) (by decide)
  · exact .decoded hdec hfault hroom

theorem decodeUnknown_effect {s : State} (code : Byte) (hfault : s.fault = false) :
    Effect s (.decUnk code) (decodeUnknown (encodeCW (.decUnk code)) s) := by
  obtain ⟨-, h⟩ | ⟨-, h⟩ := decodeUnknown_cases (encodeCW (.decUnk code)) s <;> rw [h]
  · exact .raised (by simp) hfault (by decide) (by decide)
  · exact decodeElement_effect .i32 rfl hfault

theorem trimWindow_effect {s : State} (hfault : s.fault = false) :
    Effect s .trim (trimWindow (encodeCW .trim) s) := by
  obtain ⟨-, h⟩ | ⟨hlen, h⟩ := trimWindow_cases (encodeCW .trim) s <;> rw [h]
  · exact .raised (by simp) hfault (by decide) (by decide)
  · exact .trimmed hfault hlen

theorem takeFrame_effect {s : State} (len : Half) (hfault : s.fault = false) :
    Effect s (.take len) (takeFrame len.toNat (encodeCW (.take len)) s) := by
  obtain ⟨-, h⟩ | ⟨-, -, -, h⟩ | ⟨-, hmax, hcnt, h⟩ := takeFrame_cases len.toNat (encodeCW (.take len)) s <;> rw [h]
  · exact .raised (by simp) hfault (by decide) (by decide)
  · exact .waiting hfault
  · exact .taken hfault hmax hcnt

theorem verifyFrame_effect {s : State} (hfault : s.fault = false) : Effect s .crcvfy (verifyFrame s) := by
  obtain ⟨-, h⟩ | ⟨-, h⟩ := verifyFrame_cases s <;> rw [h]
  · exact .checked s.crcacc rfl hfault (by decide)
  · have hst : (if verify s.frame then stOk else stCrcBad).toNat ≤ 2 := by split <;> decide
    exact .checked _ rfl hfault hst

theorem exec_xbits (off size : Byte) (v : DWord) (s : State) :
    exec (.xbits off size v) s = onCommandPort (fun t => setStatus stOk
      { t with res := BitVec.ofNat 64 (extractBits v.toNat off.toNat size.toNat) }) s := rfl

theorem exec_effect {i : Instr} {s t : State} (h : exec i s = .next t) : Effect s i t := by
  cases i with
  | push b =>
    obtain rfl : receiveByte b s = t := Host.Outcome.next.inj h
    exact .received b
  | crcinit | crcupd _ | crccalc =>
    exact effect_of_onCommandPort (by simp) rfl (fun hfault => .checked _ rfl hfault (by decide)) h
  | crcvfy => exact effect_of_onCommandPort (by simp) rfl verifyFrame_effect h
  | xbits off size v => exact effect_of_onCommandPort (by simp) (exec_xbits off size v s) .extracted h
  | decBool | decChar | decI8 | decU8 | decI16 | decU16
  | decI32 | decU32 | decI64 | decU64 | decF32 | decF64 =>
    exact effect_of_onCommandPort (by simp) rfl (decodeElement_effect _ rfl) h
  | decUnk code => exact effect_of_onCommandPort (by simp) rfl (decodeUnknown_effect code) h
  | trim => exact effect_of_onCommandPort (by simp) rfl trimWindow_effect h
  | take len => exact effect_of_onCommandPort (by simp) rfl (takeFrame_effect len) h

/-- A faulted block ignores every command and receives every byte (R207). -/
theorem Effect.of_faulted {i : Instr} {s t : State} (h : Effect s i t) (hfault : s.fault = true) :
    t = s ∨ ∃ b, t = receiveByte b s := by
  cases h with
  | ignored => exact .inl rfl
  | received b => exact .inr ⟨b, rfl⟩
  | raised | checked | extracted | decoded | trimmed | waiting | taken => simp_all

/-! ## What every step keeps -/

/-- What idle turns, instructions, illegal words and resets keep, every step keeps (R20). -/
theorem step_keeps {P : State → Prop} {s t : State}
    (henv : ∀ (s : State) hl rl ts, P s → P { s with hostLine := hl, rxLine := rl, turns := ts })
    (hexec : ∀ {i : Instr} {s t : State}, Effect s i t → P s → P t)
    (hillegal : ∀ {s : State} (cw : Word), s.fault = false → P s → P (raiseFault causeIllegal cw s))
    (hreset : ∀ {s : State}, P s → P (resetBlock s)) (hs : P s) (h : step s = .next t) : P t := by
  obtain ⟨-, hend⟩ | ⟨a, ts, -, hidle, -⟩ | ⟨ts, c, cs, i, -, -, -, hlegal⟩ | ⟨ts, c, cs, why, -, -, -, hbad⟩ |
    ⟨ts, b, bs, -, -, hpush⟩ | ⟨ts, -, hres⟩ := step_cases s
  · rw [hend] at h; cases h
  · rw [hidle] at h; cases h
    exact henv s s.hostLine s.rxLine ts hs
  · exact hexec (exec_effect (hlegal.symm.trans h)) (henv s cs s.rxLine ts hs)
  · obtain ⟨-, rfl⟩ | ⟨hfault, rfl⟩ := illegalCommand_next (hbad.symm.trans h)
    · exact henv s cs s.rxLine ts hs
    · exact hillegal c.cw hfault (henv s cs s.rxLine ts hs)
  · exact hexec (exec_effect (hpush.symm.trans h)) (henv s s.hostLine bs ts hs)
  · rw [hres] at h; cases h
    exact hreset (henv s s.hostLine s.rxLine ts hs)

/-! ### The store bounds -/

theorem storesOk_readElement {s : State} {e : EType} (hroom : (width s.params e : Int) ≤ s.windowLeft)
    (hs : s.StoresOk) : (readElement e s).StoresOk := by
  obtain ⟨hp, -, hend, hlen, hcap⟩ := hs
  refine ⟨hp, ?_, hend, hlen, hcap⟩
  have := s.cend.isLt
  simp only [State.windowLeft] at hroom
  simp only [readElement_cur, readElement_cend, BitVec.toNat_add, BitVec.toNat_ofNat]
  omega

/-- A window over the first `n` bytes of the frame is within the bounds. -/
theorem storesOk_openWindow {s : State} {n : Nat} (hn : n ≤ s.frame.length) (hs : s.StoresOk) :
    ({ s with cur := 0, cend := BitVec.ofNat 16 n, st := stOk } : State).StoresOk := by
  obtain ⟨hp, -, -, hlen, hcap⟩ := hs
  refine ⟨hp, by simp, ?_, hlen, hcap⟩
  simp only [BitVec.toNat_ofNat]
  exact (Nat.mod_le _ _).trans hn

theorem storesOk_moveFrame {s : State} {n : Nat} (hmax : n ≤ s.params.maxl) (hcnt : n ≤ s.rxcnt)
    (hs : s.StoresOk) : (setStatus stOk (moveFrame n s)).StoresOk := by
  obtain ⟨hp, -, -, -, hcap⟩ := hs
  have hframe : (s.rxbuf.take n).length = n := List.length_take_of_le hcnt
  refine ⟨hp, by simp, ?_, hframe.trans_le hmax, holds_mono ?_ hcap⟩
  · exact (Nat.mod_le _ _).trans hframe.ge
  · simp [State.rxcnt]

theorem storesOk_receiveByte {s : State} (b : Byte) (hs : s.StoresOk) : (receiveByte b s).StoresOk := by
  obtain ⟨hready, h⟩ | ⟨-, h⟩ := receiveByte_cases b s <;> rw [h]
  · obtain ⟨hp, hcur, hend, hlen, -⟩ := hs
    refine ⟨hp, hcur, hend, hlen, ?_⟩
    simpa [State.rxcnt] using holds_succ_of_rxReady hready
  · exact hs

theorem Effect.storesOk {i : Instr} {s t : State} (h : Effect s i t) (hs : s.StoresOk) : t.StoresOk := by
  cases h with
  | ignored | raised | checked | extracted | waiting => exact hs
  | decoded _ _ hroom => exact storesOk_readElement hroom hs
  | trimmed => exact storesOk_openWindow (Nat.sub_le ..) hs
  | taken _ hmax hcnt => exact storesOk_moveFrame hmax hcnt hs
  | received b => exact storesOk_receiveByte b hs

theorem resetBlock_storesOk {s : State} (hs : s.StoresOk) : (resetBlock s).StoresOk := by
  obtain ⟨hp, -, -, -, hcap⟩ := hs
  exact ⟨hp, le_rfl, le_rfl, Nat.zero_le _, holds_mono (Nat.zero_le _) hcap⟩

theorem step_storesOk {s t : State} (hs : s.StoresOk) (h : step s = .next t) : t.StoresOk :=
  step_keeps (fun _ _ _ _ h => h) Effect.storesOk (fun _ _ h => h) resetBlock_storesOk hs h

/-- Within the bounds FLEN does not wrap (log 8). -/
theorem flen_toNat {s : State} (hs : s.StoresOk) : s.flen.toNat = s.frame.length := by
  obtain ⟨⟨-, hmaxl, -⟩, -, -, hlen, -⟩ := hs
  rw [State.flen, BitVec.toNat_ofNat]
  omega

theorem reset_storesOk : State.reset.StoresOk := by decide

/-- Settles O8, by the invariant that every step keeps. -/
theorem everyStepKeepsTheStoreBounds : Obligations.EveryStepKeepsTheStoreBounds :=
  ⟨reset_storesOk, fun _ _ hs h => ⟨step_storesOk hs h, flen_toNat (step_storesOk hs h), rfl⟩⟩

/-! ### The fault registers -/

/-- An unfaulted block's cause and information are zero, so a legal status completes the invariant. -/
theorem faultRegsOk_of_status {s t : State} (hfault : s.fault = false) (hs : s.FaultRegsOk)
    (hf : t.fault = s.fault) (hc : t.fcause = s.fcause) (hi : t.finfo = s.finfo) (hst : t.st.toNat ≤ 2) :
    t.FaultRegsOk := by
  simp_all [State.FaultRegsOk]

theorem raiseFault_faultRegsOk {s : State} {cause : BitVec 3} (cw : Word) (hnz : cause ≠ 0)
    (hle : cause.toNat ≤ 4) : (raiseFault cause cw s).FaultRegsOk := by
  simpa [State.FaultRegsOk, stFault, hle] using hnz

theorem Effect.faultRegsOk {i : Instr} {s t : State} (h : Effect s i t) (hs : s.FaultRegsOk) :
    t.FaultRegsOk := by
  cases h with
  | ignored => exact hs
  | raised _ _ hnz hle => exact raiseFault_faultRegsOk _ hnz hle
  | checked _ _ hfault hst => exact faultRegsOk_of_status hfault hs rfl rfl rfl hst
  | extracted hfault | decoded _ hfault | trimmed hfault | waiting hfault | taken hfault =>
    exact faultRegsOk_of_status hfault hs rfl rfl rfl (by simp [stOk, stInsufficient])
  | received b => simpa [State.FaultRegsOk] using hs

/-- Settles O9, by the ways an instruction can act; an illegal word and a reset set all four registers. -/
theorem everyStepKeepsTheFaultRegisters : Obligations.EveryStepKeepsTheFaultRegisters := fun _ _ =>
  step_keeps (fun _ _ _ _ h => h) Effect.faultRegsOk
    (fun cw _ _ => raiseFault_faultRegsOk cw (by decide) (by decide)) (fun _ => by simp [State.FaultRegsOk])

/-! ## A faulted run -/

/-- `t` is `s` but for bytes at the tail of RXBUF and what the environment has still to do. -/
def OnlyReceives (s t : State) : Prop :=
  ∃ bs hl rl ts, t = { s with rxbuf := s.rxbuf ++ bs, hostLine := hl, rxLine := rl, turns := ts }

theorem OnlyReceives.env (s : State) (hl : List Command) (rl : List Byte) (ts : List Agent) :
    OnlyReceives s { s with hostLine := hl, rxLine := rl, turns := ts } :=
  ⟨[], hl, rl, ts, by simp⟩

theorem OnlyReceives.refl (s : State) : OnlyReceives s s := .env s ..

theorem OnlyReceives.trans {s t u : State} (h₁ : OnlyReceives s t) (h₂ : OnlyReceives t u) :
    OnlyReceives s u := by
  obtain ⟨bs, _, _, _, rfl⟩ := h₁
  obtain ⟨bs', hl, rl, ts, rfl⟩ := h₂
  exact ⟨bs ++ bs', hl, rl, ts, by simp⟩

theorem OnlyReceives.receiveByte (b : Byte) (s : State) : OnlyReceives s (receiveByte b s) := by
  obtain ⟨-, h⟩ | ⟨-, h⟩ := receiveByte_cases b s <;> rw [h]
  · exact ⟨[b], _, _, _, rfl⟩
  · exact .env s ..

theorem OnlyReceives.fault {s t : State} (h : OnlyReceives s t) : t.fault = s.fault := by
  obtain ⟨_, _, _, _, rfl⟩ := h
  rfl

theorem Effect.onlyReceives {i : Instr} {s t : State} (h : Effect s i t) (hfault : s.fault = true) :
    OnlyReceives s t ∧ t.turns = s.turns := by
  obtain rfl | ⟨b, rfl⟩ := h.of_faulted hfault
  · exact ⟨.refl _, rfl⟩
  · exact ⟨.receiveByte b s, receiveByte_turns s b⟩

/-- A faulted block's step that is no reset only receives, and takes one turn off (R207, R210). -/
theorem step_onlyReceives {s t : State} (hfault : s.fault = true) (hno : s.NoReset) (h : step s = .next t) :
    OnlyReceives s t ∧ t.NoReset := by
  obtain ⟨-, hend⟩ | ⟨a, ts, hts, hidle, -⟩ | ⟨ts, c, cs, i, hts, -, -, hlegal⟩ |
    ⟨ts, c, cs, why, hts, -, -, hbad⟩ | ⟨ts, b, bs, hts, -, hpush⟩ | ⟨ts, hts, -⟩ := step_cases s
  · rw [hend] at h; cases h
  all_goals
    rw [State.NoReset, hts, List.mem_cons, not_or] at hno
    obtain ⟨hne, hrest⟩ := hno
  · rw [hidle] at h; cases h
    exact ⟨.env s .., hrest⟩
  · obtain ⟨hrec, hturns⟩ := (exec_effect (hlegal.symm.trans h)).onlyReceives hfault
    exact ⟨(OnlyReceives.env s ..).trans hrec, by rwa [State.NoReset, hturns]⟩
  · obtain ⟨-, rfl⟩ | ⟨hunfaulted, -⟩ := illegalCommand_next (hbad.symm.trans h)
    · exact ⟨.env s .., hrest⟩
    · exact absurd (hfault.symm.trans hunfaulted) (by decide)
  · obtain ⟨hrec, hturns⟩ := (exec_effect (hpush.symm.trans h)).onlyReceives hfault
    exact ⟨(OnlyReceives.env s ..).trans hrec, by rwa [State.NoReset, hturns]⟩
  · exact absurd rfl hne

theorem takenByStep_faulted {s : State} (hfault : s.fault = true) : takenByStep s = [] := by
  unfold takenByStep
  split
  · split <;> simp [hfault]
  · rfl

theorem history_faulted (n : Nat) {s : State} (hfault : s.fault = true) (hno : s.NoReset) :
    (history n s).2 = [] ∧ OnlyReceives s (history n s).1 := by
  induction n generalizing s with
  | zero => exact ⟨rfl, .refl s⟩
  | succ n ih =>
    cases h : step s with
    | fault | refused => simpa [history, h] using OnlyReceives.refl s
    | next t =>
      obtain ⟨hrec, hno'⟩ := step_onlyReceives hfault hno h
      obtain ⟨htaken, hrun⟩ := ih (hrec.fault.trans hfault) hno'
      simpa [history, h, takenByStep_faulted hfault, htaken] using hrec.trans hrun

/-- Settles O10, by induction on the number of steps. -/
theorem faultIsStickyUntilReset : Obligations.FaultIsStickyUntilReset := by
  intro n s hfault hno
  obtain ⟨htaken, bs, hl, rl, ts, hrun⟩ := history_faulted n hfault hno
  refine ⟨htaken, ?_⟩
  rw [hrun]
  exact ⟨hfault, rfl, rfl, rfl, rfl, rfl, rfl, rfl, rfl, rfl, bs, rfl⟩

/-! ## Who writes what -/

/-- Settles O14, by the ways an instruction can act. -/
theorem registersWrittenOnlyByTheirCommands : Obligations.RegistersWrittenOnlyByTheirCommands := by
  intro i s t h
  cases exec_effect h with
  | ignored => simp
  | raised hpush => simp [hpush]
  | checked _ hcrc =>
    have hpush : ∀ b, i ≠ .push b := by rintro b rfl; simp [isCrc] at hcrc
    simp [hcrc, hpush]
  | decoded hdec => simp [hdec, ne_push_of_isDec hdec]
  | extracted | trimmed | waiting | taken | received => simp

/-! ## The reset values -/

/-- Settles O5: the reset turn runs `resetBlock`. -/
theorem resetTransitionSetsResetValues : Obligations.ResetTransitionSetsResetValues := by
  intro s ts h
  refine ⟨resetBlock { s with turns := ts }, by simp [step, h, turnOf], ?_⟩
  simp [State.rxcnt, State.flen]

/-- Settles O6. -/
theorem resetStateHoldsResetValues : Obligations.ResetStateHoldsResetValues := by
  unfold Obligations.ResetStateHoldsResetValues
  decide

/-- Settles O7. -/
theorem resetStateMeetsTheInvariants : Obligations.ResetStateMeetsTheInvariants :=
  ⟨reset_storesOk, by decide⟩

/-! ## When a step stops -/

theorem exec_completes (i : Instr) (s : State) : ∃ t, exec i s = .next t := by
  cases i <;> exact ⟨_, rfl⟩

theorem step_completes {s : State} (hts : s.turns ≠ []) : ∃ t, step s = .next t := by
  obtain ⟨hnil, -⟩ | ⟨a, ts, -, h, -⟩ | ⟨ts, c, cs, i, -, -, -, h⟩ | ⟨ts, c, cs, why, -, -, -, h⟩ |
    ⟨ts, b, bs, -, -, h⟩ | ⟨ts, -, h⟩ := step_cases s
  · exact absurd hnil hts
  all_goals rw [h]
  · exact ⟨_, rfl⟩
  · exact exec_completes ..
  · exact onCommandPort_completes ..
  · exact exec_completes ..
  · exact ⟨_, rfl⟩

theorem step_of_no_turns {s : State} (hts : s.turns = []) : step s = .fault .runEnded := by
  simp [step, hts]

/-- Settles O13: with a turn left a step completes, whatever the turn is. -/
theorem stepStopsOnlyWhenNoTurnIsLeft : Obligations.StepStopsOnlyWhenNoTurnIsLeft := by
  refine ⟨fun s => ⟨fun h => ?_, step_of_no_turns⟩, fun s r h => ?_, fun s ts hts hl => ?_,
    fun s ts hts hl => ?_⟩
  · by_contra hts
    obtain ⟨t, ht⟩ := step_completes hts
    rw [ht] at h; cases h
  · obtain hts | hts := eq_or_ne s.turns []
    · rw [step_of_no_turns hts] at h; cases h
    · obtain ⟨t, ht⟩ := step_completes hts
      rw [ht] at h; cases h
  · simp [step, hts, turnOf, hostTurn, hl]
  · simp [step, hts, turnOf, rxTurn, hl]

/-! ## The ports and STATUS -/

/-- The flags of STATUS fit their bits, so the packing does not wrap (R39). -/
theorem status_toNat (s : State) :
    s.status.toNat = s.st.toNat + 2 ^ 3 * s.fault.toNat + 2 ^ 4 * s.fcause.toNat + 2 ^ 7 * s.rxFull.toNat +
      2 ^ 8 * s.rxEmpty.toNat := by
  have := s.st.isLt; have := s.fcause.isLt
  have := s.fault.toNat_le; have := s.rxFull.toNat_le; have := s.rxEmpty.toNat_le
  rw [State.status, BitVec.toNat_ofNat, Nat.mod_eq_of_lt (by omega)]

theorem getLsbD_eq_of_toNat {w k : Nat} {x : BitVec w} {b : Bool} (h : x.toNat / 2 ^ k % 2 = b.toNat) :
    x.getLsbD k = b := by
  rw [← BitVec.testBit_toNat, Nat.testBit_eq_decide_div_mod_eq, h]
  cases b <;> rfl

/-- Settles O59: each field of STATUS is a quotient and remainder of the packed number. -/
theorem statusPacksTheFlags : Obligations.StatusPacksTheFlags := by
  intro s
  have := s.st.isLt; have := s.fcause.isLt
  have := s.fault.toNat_le; have := s.rxFull.toNat_le; have := s.rxEmpty.toNat_le
  have hnat := status_toNat s
  have hfull : s.status.getLsbD 7 = s.rxFull := getLsbD_eq_of_toNat (by omega)
  have hempty : s.status.getLsbD 8 = s.rxEmpty := getLsbD_eq_of_toNat (by omega)
  refine ⟨?_, getLsbD_eq_of_toNat (by omega), ?_, by rw [hfull, State.rxFull, decide_eq_true_iff],
    by rw [hempty, State.rxEmpty, decide_eq_true_iff], ?_⟩
  all_goals
    apply BitVec.eq_of_toNat_eq
    simp only [BitVec.extractLsb'_toNat, Nat.shiftRight_eq_div_pow, BitVec.ofNat_eq_ofNat, BitVec.toNat_ofNat]
    omega

/-- Settles O58: the nine indices one by one, and any later one. -/
theorem observationPortReadsItsRegisters : Obligations.ObservationPortReadsItsRegisters := by
  refine fun s free => ⟨rfl, rfl, rfl, rfl, rfl, rfl, rfl, rfl, rfl, fun k hk => ?_⟩
  obtain ⟨j, rfl⟩ := Nat.exists_eq_add_of_le' hk
  rfl

/-- Settles O60: the port is a list lookup with a default. -/
theorem frameReadPortReadsTheFrame : Obligations.FrameReadPortReadsTheFrame := fun s _ free =>
  ⟨List.getD_eq_getElem s.frame free, List.getD_eq_default s.frame free⟩

end Sys2Proof.Machine
end

section
/-! PROOF. The stores: bytes keep their order through every run (20_memory.md R58 to R60, 42_frame_assembler.md R155),
reads of different widths agree (20_memory.md R51), and a host's CRC sequence does not see the pushes between its
commands (R60, R176). -/

namespace Sys2Proof.Machine

/-! ## Conservation and order of the bytes -/

/-- Between `s` and `t` the frames `fs` were taken, first one first: they and the stream left are the stream there was,
and FRAME is the last of them, if any (R58, R59). -/
def Takes (fs : List (List Byte)) (s t : State) : Prop :=
  fs.flatten ++ t.stream = s.stream ∧ t.frame = fs.getLast?.getD s.frame

theorem Takes.none {s t : State} (hstream : t.stream = s.stream) (hframe : t.frame = s.frame) : Takes [] s t :=
  ⟨hstream, hframe⟩

theorem Takes.one {f : List Byte} {s t : State} (hstream : f ++ t.stream = s.stream) (hframe : t.frame = f) :
    Takes [f] s t :=
  ⟨by simpa using hstream, hframe⟩

theorem Takes.trans {fs gs : List (List Byte)} {s t u : State} (h₁ : Takes fs s t) (h₂ : Takes gs t u) :
    Takes (fs ++ gs) s u := by
  obtain ⟨hstream₁, hframe₁⟩ := h₁
  obtain ⟨hstream₂, hframe₂⟩ := h₂
  constructor
  · rw [List.flatten_append, List.append_assoc, hstream₂, hstream₁]
  · rw [hframe₂, hframe₁, List.getLast?_append]
    cases gs.getLast? <;> rfl

/-- The frame that an instruction issued on `s` takes, as `takenByStep` lists it. -/
def takenByInstr (s : State) : Instr → List (List Byte)
  | .take len =>
    if s.fault = false ∧ len ≠ 0 ∧ len.toNat ≤ s.params.maxl ∧ len.toNat ≤ s.rxcnt then
      [s.rxbuf.take len.toNat]
    else []
  | _ => []

theorem takenByInstr_of_ne_take {i : Instr} (s : State) (hi : ∀ len, i ≠ .take len) : takenByInstr s i = [] := by
  unfold takenByInstr
  split
  · exact absurd rfl (hi _)
  · rfl

theorem takenByStep_legal {s : State} {ts : List Agent} {c : Command} {cs : List Command} {i : Instr}
    (hts : s.turns = .host :: ts) (hl : s.hostLine = c :: cs) (hd : decodeCommand c = .legal i) :
    takenByStep s = takenByInstr { s with turns := ts, hostLine := cs } i := by
  simp only [takenByStep, hts, hl, hd]
  cases i <;> rfl

theorem takenByStep_illegal {s : State} {ts : List Agent} {c : Command} {cs : List Command} {why : Illegal}
    (hts : s.turns = .host :: ts) (hl : s.hostLine = c :: cs) (hd : decodeCommand c = .illegal why) :
    takenByStep s = [] := by
  simp only [takenByStep, hts, hl, hd]

theorem takenByStep_of_no_command {s : State} (hl : s.hostLine = []) : takenByStep s = [] := by
  unfold takenByStep
  split
  · simp_all
  · rfl

theorem takenByStep_of_ne_host {s : State} {a : Agent} {ts : List Agent} (hts : s.turns = a :: ts)
    (ha : a ≠ .host) : takenByStep s = [] := by
  unfold takenByStep
  split
  · simp_all
  · rfl

/-- TAKE gives a frame exactly where `takenByInstr` lists one (R153, R207). -/
theorem exec_take_takes {len : Half} {s t : State} (h : exec (.take len) s = .next t) :
    Takes (takenByInstr s (.take len)) s t := by
  simp only [takenByInstr]
  obtain ⟨hfault, rfl⟩ | ⟨hfault, rfl⟩ := onCommandPort_next h
  · rw [if_neg (by simp [hfault])]
    exact .none rfl rfl
  · obtain ⟨hlen, he⟩ | ⟨-, -, hcnt, he⟩ | ⟨hne, hmax, hcnt, he⟩ :=
      takeFrame_cases len.toNat (encodeCW (.take len)) s <;> rw [he]
    · rw [if_neg]
      · exact .none rfl rfl
      · rintro ⟨-, hne, hmax, -⟩
        exact hlen.elim (fun h0 => hne (BitVec.eq_of_toNat_eq h0)) (fun hlt => absurd hmax hlt.not_ge)
    · rw [if_neg fun ⟨_, _, _, hle⟩ => absurd hle hcnt.not_ge]
      exact .none rfl rfl
    · rw [if_pos ⟨hfault, fun h0 => hne (by rw [h0]; rfl), hmax, hcnt⟩]
      exact .one (by simp [State.stream, ← List.append_assoc]) rfl

/-- Every other command leaves the stream and FRAME alone (R58, R59). -/
theorem Effect.takes_none {i : Instr} {s t : State} (h : Effect s i t) (hpush : ∀ b, i ≠ .push b)
    (htake : ∀ len, i ≠ .take len) : Takes [] s t := by
  cases h with
  | ignored | raised | checked | extracted | decoded | trimmed => exact .none rfl rfl
  | waiting | taken => exact absurd rfl (htake _)
  | received b => exact absurd rfl (hpush b)

theorem exec_takes {i : Instr} {s t : State} (hpush : ∀ b, i ≠ .push b) (h : exec i s = .next t) :
    Takes (takenByInstr s i) s t := by
  by_cases hi : ∃ len, i = .take len
  · obtain ⟨len, rfl⟩ := hi
    exact exec_take_takes h
  · have htake : ∀ len, i ≠ .take len := fun len heq => hi ⟨len, heq⟩
    rw [takenByInstr_of_ne_take s htake]
    exact (exec_effect h).takes_none hpush htake

/-- A byte offered is the next one of the stream, whether it is appended or kept (R151, R152). -/
theorem receiveByte_stream (b : Byte) (s : State) : (receiveByte b s).stream = s.rxbuf ++ b :: s.rxLine := by
  obtain ⟨-, h⟩ | ⟨-, h⟩ := receiveByte_cases b s <;> simp [h, State.stream]

theorem decodeZ_eq_legal_iff {i j : Instr} {cw : Word} :
    decodeZ i cw = .legal j ↔ aField cw = 0 ∧ bField cw = 0 ∧ i = j := by
  simp [decodeZ, ite_eq_iff]

theorem decodeA_eq_legal_iff {f : Byte → Instr} {cw : Word} {j : Instr} :
    decodeA f cw = .legal j ↔ bField cw = 0 ∧ f (aField cw) = j := by
  simp [decodeA, ite_eq_iff]

theorem decodeDec_ne_push (code b : Byte) : decodeDec code ≠ .push b := by
  simp [decodeDec, ite_eq_iff]

/-- No command word is a byte on the RX port (R72, R80): none of R79's branches gives PUSH. -/
theorem decodeCommand_ne_push {c : Command} {i : Instr} (h : decodeCommand c = .legal i) (b : Byte) :
    i ≠ .push b := by
  rintro rfl
  simp [decodeCommand, ite_eq_iff, decodeZ_eq_legal_iff, decodeA_eq_legal_iff, decodeDec_ne_push] at h

/-- A step that is no reset takes what `takenByStep` lists. -/
theorem step_takes {s t : State} (hno : s.NoReset) (h : step s = .next t) : Takes (takenByStep s) s t := by
  obtain ⟨-, hend⟩ | ⟨a, ts, hts, hidle, hwhy⟩ | ⟨ts, c, cs, i, hts, hl, hd, hlegal⟩ |
    ⟨ts, c, cs, why, hts, hl, hd, hbad⟩ | ⟨ts, b, bs, hts, hl, hpush⟩ | ⟨ts, hts, -⟩ := step_cases s
  · rw [hend] at h; cases h
  · have hnone : takenByStep s = [] := by
      obtain ⟨-, hl⟩ | ⟨rfl, -⟩ := hwhy
      · exact takenByStep_of_no_command hl
      · exact takenByStep_of_ne_host hts (by decide)
    rw [hidle] at h; cases h
    rw [hnone]
    exact .none rfl rfl
  · rw [takenByStep_legal hts hl hd]
    exact exec_takes (decodeCommand_ne_push hd) (hlegal.symm.trans h)
  · rw [takenByStep_illegal hts hl hd]
    obtain ⟨-, rfl⟩ | ⟨-, rfl⟩ := illegalCommand_next (hbad.symm.trans h) <;> exact .none rfl rfl
  · rw [takenByStep_of_ne_host hts (by decide)]
    cases hpush.symm.trans h
    exact .none (by rw [receiveByte_stream, State.stream, hl]) (receiveByte_frame ..)
  · simp [State.NoReset, hts] at hno

theorem Effect.turns {i : Instr} {s t : State} (h : Effect s i t) : t.turns = s.turns := by
  cases h with
  | received b => exact receiveByte_turns s b
  | ignored | raised | checked | extracted | decoded | trimmed | waiting | taken => rfl

/-- A step takes one turn off and adds none (log 1). -/
theorem step_turns {s t : State} (h : step s = .next t) : t.turns = s.turns.tail := by
  obtain ⟨-, hend⟩ | ⟨a, ts, hts, hidle, -⟩ | ⟨ts, c, cs, i, hts, -, -, hlegal⟩ |
    ⟨ts, c, cs, why, hts, -, -, hbad⟩ | ⟨ts, b, bs, hts, -, hpush⟩ | ⟨ts, hts, hres⟩ := step_cases s
  · rw [hend] at h; cases h
  all_goals rw [hts, List.tail_cons]
  · rw [hidle] at h; cases h; rfl
  · exact (exec_effect (hlegal.symm.trans h)).turns
  · obtain ⟨-, rfl⟩ | ⟨-, rfl⟩ := illegalCommand_next (hbad.symm.trans h) <;> rfl
  · exact (exec_effect (hpush.symm.trans h)).turns
  · rw [hres] at h; cases h; rfl

theorem history_takes (n : Nat) {s : State} (hno : s.NoReset) : Takes (history n s).2 s (history n s).1 := by
  induction n generalizing s with
  | zero => exact .none rfl rfl
  | succ n ih =>
    cases h : step s with
    | fault | refused => simpa only [history, h] using Takes.none rfl rfl
    | next t =>
      have hno' : t.NoReset := by
        rw [State.NoReset, step_turns h]
        exact fun hmem => hno (List.mem_of_mem_tail hmem)
      simpa only [history, h] using (step_takes hno h).trans (ih hno')

/-- Settles O50, by induction on the number of steps. -/
theorem runsConserveEveryByteInOrder : Obligations.RunsConserveEveryByteInOrder := by
  intro n s hno
  obtain ⟨hstream, hframe⟩ := history_takes n hno
  exact ⟨by rw [List.append_assoc]; exact hstream, hframe⟩

/-- Two ways to cut one byte string into pieces of the same lengths give the same pieces. -/
theorem eq_of_flatten_append_eq {α : Type} {fs gs : List (List α)} {xs ys : List α}
    (h : fs.flatten ++ xs = gs.flatten ++ ys) (hlen : fs.map List.length = gs.map List.length) : fs = gs := by
  have hflat : fs.flatten.length = gs.flatten.length := by rw [List.length_flatten, List.length_flatten, hlen]
  exact List.eq_iff_flatten_eq.mpr ⟨List.append_inj_left h hflat, hlen⟩

/-- Settles O51: both runs cut the same stream. -/
theorem framesDoNotDependOnTheInterleaving : Obligations.FramesDoNotDependOnTheInterleaving := by
  intro n m s u hs hu hstream hlen
  obtain ⟨hcut, -⟩ := history_takes n hs
  obtain ⟨hcut', -⟩ := history_takes m hu
  exact eq_of_flatten_append_eq ((hcut.trans hstream).trans hcut'.symm) hlen

/-! ## Reads of different widths -/

/-- An unfaulted block whose frame goes on with `xs` at the cursor and whose window still holds `n` bytes. -/
def ReadsFrom (s : State) (xs : List Byte) (n : Nat) : Prop :=
  s.fault = false ∧ s.frame.drop s.cur.toNat = xs ∧ (n : Int) ≤ s.windowLeft

/-- `le` of a string is that of its first part and, above it, that of the rest (R11, R51). -/
theorem le_take_add (xs : List Byte) (a b : Nat) :
    le (xs.take (a + b)) = le (xs.take a) + 256 ^ a * le ((xs.drop a).take b) := by
  rw [List.take_add, le_append]
  obtain hle | hlt := le_or_gt a xs.length
  · rw [List.length_take_of_le hle]
  · simp [List.drop_eq_nil_of_le hlt.le, le]

theorem width_le (p : Params) (e : EType) : width p e ≤ 8 := by
  cases e with
  | char => cases h : p.charBytes <;> simp [width, charWidth, h]
  | bool | i8 | u8 | i16 | u16 | i32 | u32 | f32 | i64 | u64 | f64 => simp [width]

/-- RAW holds the whole raw pattern: no element is wider than 64 bits (R22, R126). -/
theorem readElement_raw_toNat (e : EType) (s : State) : (readElement e s).raw.toNat = s.elementAtCursor e := by
  have hlt : s.elementAtCursor e < 256 ^ 8 :=
    (le_lt _).trans_le (Nat.pow_le_pow_right (by decide) ((frameBytes_length_le ..).trans (width_le ..)))
  rw [readElement_raw, BitVec.toNat_ofNat]
  exact Nat.mod_eq_of_lt hlt

/-- DEC with room in the window reads the element at the cursor (R126). -/
theorem issue_decOf_of_room {s : State} {e : EType} (hfault : s.fault = false)
    (hroom : (width s.params e : Int) ≤ s.windowLeft) : issue (decOf e) s = readElement e s := by
  rw [issue_decOf e hfault]
  obtain ⟨hshort, -⟩ | ⟨-, h⟩ := decodeElement_cases e (encodeCW (decOf e)) s
  · omega
  · exact h

/-- Within the window the cursor does not wrap (R126). -/
theorem readElement_cur_toNat {s : State} {e : EType} (hroom : (width s.params e : Int) ≤ s.windowLeft) :
    (readElement e s).cur.toNat = s.cur.toNat + width s.params e := by
  have := s.cend.isLt
  rw [State.windowLeft] at hroom
  rw [readElement_cur, BitVec.toNat_add, BitVec.toNat_ofNat]
  omega

/-- DEC reads the next `width(t)` bytes and leaves the cursor behind them (R126). -/
theorem ReadsFrom.decode_next {s : State} {xs : List Byte} {e : EType} {w n : Nat} (h : ReadsFrom s xs (w + n))
    (hw : width s.params e = w) :
    (issue (decOf e) s).raw.toNat = le (xs.take w) ∧ ReadsFrom (issue (decOf e) s) (xs.drop w) n := by
  obtain ⟨hfault, rfl, hleft⟩ := h
  subst hw
  have hroom : (width s.params e : Int) ≤ s.windowLeft := by omega
  have hcur := readElement_cur_toNat hroom
  rw [issue_decOf_of_room hfault hroom]
  refine ⟨readElement_raw_toNat e s, hfault, ?_, ?_⟩
  · rw [hcur, readElement_frame, List.drop_drop]
  · rw [State.windowLeft] at hleft ⊢
    rw [hcur, readElement_cend]
    omega

/-- Settles O43: every decode reads the next bytes of one string, and `le` adds up over its parts. -/
theorem mixedWidthDecodesAgree : Obligations.MixedWidthDecodesAgree := by
  intro s hfault hroom
  set xs := s.frame.drop s.cur.toNat with hxs
  have h4 : ReadsFrom s xs 4 := ⟨hfault, hxs.symm, hroom⟩
  obtain ⟨hword, -⟩ := h4.decode_next (e := .u32) (w := 4) (n := 0) rfl
  obtain ⟨hlow, h2⟩ := h4.decode_next (e := .u16) (w := 2) (n := 2) rfl
  obtain ⟨hhigh, -⟩ := h2.decode_next (e := .u16) (w := 2) (n := 0) rfl
  obtain ⟨hb0, h3⟩ := h4.decode_next (e := .u8) (w := 1) (n := 3) rfl
  obtain ⟨hb1, h2'⟩ := h3.decode_next (e := .u8) (w := 1) (n := 2) rfl
  obtain ⟨hb2, h1⟩ := h2'.decode_next (e := .u8) (w := 1) (n := 1) rfl
  obtain ⟨hb3, -⟩ := h1.decode_next (e := .u8) (w := 1) (n := 0) rfl
  simp only [decOf] at hword hlow hhigh hb0 hb1 hb2 hb3
  rw [hword, hlow, hhigh, hb0, hb1, hb2, hb3]
  constructor
  · exact le_take_add xs 2 2
  · have hrest : le (xs.take 4) = le (xs.take 1) + 256 * le ((xs.drop 1).take 3) := le_take_add xs 1 3
    have hrest₁ : le ((xs.drop 1).take 3) = le ((xs.drop 1).take 1) + 256 * le (((xs.drop 1).drop 1).take 2) :=
      le_take_add (xs.drop 1) 1 2
    have hrest₂ : le (((xs.drop 1).drop 1).take 2) =
        le (((xs.drop 1).drop 1).take 1) + 256 * le ((((xs.drop 1).drop 1).drop 1).take 1) :=
      le_take_add ((xs.drop 1).drop 1) 1 1
    omega

/-! ## Sequence TRAILER among pushes -/

theorem setCrc_setCrc (c d : Half) (s : State) : setCrc d (setCrc c s) = setCrc d s := rfl

theorem receiveByte_setCrc (b : Byte) (c : Half) (s : State) :
    receiveByte b (setCrc c s) = setCrc c (receiveByte b s) := by
  have hready : (setCrc c s).rxReady = s.rxReady := rfl
  simp only [receiveByte, hready]
  split <;> rfl

/-- The RX agent's turn does not see the CRC unit's registers, nor they it (R60). -/
theorem nextOr_rxTurn_setCrc (c : Half) (s : State) :
    nextOr (setCrc c s) (rxTurn (setCrc c s)) = setCrc c (nextOr s (rxTurn s)) := by
  rw [rxTurn, rxTurn, setCrc_rxLine]
  cases s.rxLine with
  | nil => rfl
  | cons b bs => exact receiveByte_setCrc b c { s with rxLine := bs }

theorem rxTurns_setCrc (k : Nat) (c : Half) (s : State) : rxTurns k (setCrc c s) = setCrc c (rxTurns k s) := by
  induction k generalizing s with
  | zero => rfl
  | succ k ih => rw [rxTurns_succ, nextOr_rxTurn_setCrc, ih, rxTurns_succ]

theorem rxTurns_add (j k : Nat) (s : State) : rxTurns (j + k) s = rxTurns k (rxTurns j s) := by
  induction j generalizing s with
  | zero => rw [Nat.zero_add, rxTurns_zero]
  | succ j ih => rw [Nat.succ_add, rxTurns_succ, ih, rxTurns_succ]

theorem issueAfter_crcinit (k : Nat) {s : State} (hfault : s.fault = false) :
    issueAfter k .crcinit s = setCrc Config.crcSeed (rxTurns k s) := by
  simp [issueAfter, issue, exec, execCrcinit, onCommandPort_unfaulted, hfault]

theorem issueAfter_crcupd (k : Nat) (b : Byte) (c : Half) {s : State} (hfault : s.fault = false) :
    issueAfter k (.crcupd b) (setCrc c s) = setCrc (crcStep c b) (rxTurns k s) := by
  simp [issueAfter, issue, exec, execCrcupd, onCommandPort_unfaulted, hfault, rxTurns_setCrc,
    setCrc_setCrc]

/-- A run of CRCUPD folds its bytes into the accumulator, after all the pushes that fell between (R60, R107). -/
theorem issueSpaced_crcupd (m : List Byte) (gaps : Gaps) (c : Half) {s : State} (hfault : s.fault = false) :
    issueSpaced (m.map .crcupd) gaps (setCrc c s) =
      setCrc (crcFold c m) (rxTurns (∑ k ∈ Finset.range m.length, gaps k) s) := by
  induction m generalizing gaps c s with
  | nil => rfl
  | cons b m ih =>
    have hrest : (rxTurns (gaps 0) s).fault = false := by rw [rxTurns_fault, hfault]
    simp only [List.map_cons, issueSpaced]
    rw [issueAfter_crcupd _ _ _ hfault, ih _ _ hrest, ← rxTurns_add, List.length_cons, Finset.sum_range_succ',
      Nat.add_comm (gaps 0)]
    simp only [gapsFrom_apply, Nat.add_comm 1]
    rfl

/-- `CRCMSG` leaves what the pushes alone would, with the message's CRC in CRCACC (R60, R85). -/
theorem issueSpaced_crcMsg (m : List Byte) (gaps : Gaps) {s : State} (hfault : s.fault = false) :
    issueSpaced (crcMsg m) gaps s =
      setCrc (crc16 m) (rxTurns (∑ k ∈ Finset.range (m.length + 1), gaps k) s) := by
  have hrest : (rxTurns (gaps 0) s).fault = false := by rw [rxTurns_fault, hfault]
  simp only [crcMsg, issueSpaced]
  rw [issueAfter_crcinit _ hfault, issueSpaced_crcupd _ _ _ hrest, ← rxTurns_add, Finset.sum_range_succ',
      Nat.add_comm (gaps 0)]
  simp only [gapsFrom_apply, Nat.add_comm 1]
  rfl

/-- Settles O32: the sequence's end is the pushes' with CRCACC and ST set. -/
theorem trailerSequenceFinishesAFrame : Obligations.TrailerSequenceFinishesAFrame := by
  intro m gaps s hfault
  have hend := issueSpaced_crcMsg m gaps hfault
  obtain ⟨a, b, hpushed, hstream, hprefix, -⟩ := rxTurns_spec (∑ k ∈ Finset.range (m.length + 1), gaps k) s
  refine ⟨_, by rw [trailerSequence, hend]; rfl, ?_, ?_, ?_, fun hgaps => ?_⟩
  · rw [hpushed]; exact hstream
  · rw [hpushed]; exact hprefix
  · rw [hpushed]; rfl
  · rw [Finset.sum_eq_zero fun k _ => hgaps k]; rfl

end Sys2Proof.Machine
end

section
/-! PROOF. The encoding of the commands: decoder and encoder undo each other, the illegal words are exactly those of R76
and R77, and what a step does with a word or a byte (30_encoding.md R70 to R80). -/

namespace Sys2Proof.Machine

/-! ## The rows of the opcode table -/

/-- The opcode table as a relation: the word `cw`, with `opv` beside it, encodes `i` (R73, R74).
`decodeCommand_eq_legal_iff` ties it to the decoder, `encodes_encodeCW` to the encoder. -/
inductive Encodes (opv : DWord) : Word → Instr → Prop where
  | crcinit : Encodes opv (wordOf 0 0 0 0x10) .crcinit
  | crcupd (b : Byte) : Encodes opv (wordOf 0 0 b 0x11) (.crcupd b)
  | crccalc : Encodes opv (wordOf 0 0 0 0x12) .crccalc
  | crcvfy : Encodes opv (wordOf 0 0 0 0x13) .crcvfy
  | xbits (off size : Byte) : Encodes opv (wordOf 0 size off 0x20) (.xbits off size opv)
  | dec (code : Byte) : Encodes opv (wordOf 0 0 code 0x30) (decodeDec code)
  | trim : Encodes opv (wordOf 0 0 0 0x31) .trim
  | take (len : Half) : Encodes opv (wordOf 0 (len.extractLsb' 8 8) (len.extractLsb' 0 8) 0x40) (.take len)

theorem decodeZ_wordOf_eq_legal_iff {i j : Instr} {c b a opc : Byte} :
    decodeZ i (wordOf c b a opc) = .legal j ↔ a = 0 ∧ b = 0 ∧ i = j := by
  rw [decodeZ_eq_legal_iff, aField_wordOf, bField_wordOf]

theorem decodeA_wordOf_eq_legal_iff {f : Byte → Instr} {j : Instr} {c b a opc : Byte} :
    decodeA f (wordOf c b a opc) = .legal j ↔ b = 0 ∧ f a = j := by
  rw [decodeA_eq_legal_iff, aField_wordOf, bField_wordOf]

/-- The length operand of TAKE is its two bytes (R74). -/
theorem lenField_wordOf_bytes (len : Half) (c opc : Byte) :
    lenField (wordOf c (len.extractLsb' 8 8) (len.extractLsb' 0 8) opc) = len := by
  have := len.isLt
  apply BitVec.eq_of_toNat_eq
  rw [lenField_wordOf_toNat, BitVec.extractLsb'_toNat, BitVec.extractLsb'_toNat, Nat.shiftRight_zero,
    Nat.shiftRight_eq_div_pow]
  omega

theorem lenField_wordOf_low (c b a opc : Byte) : (lenField (wordOf c b a opc)).extractLsb' 0 8 = a := by
  have := a.isLt
  apply BitVec.eq_of_toNat_eq
  rw [BitVec.extractLsb'_toNat, lenField_wordOf_toNat, Nat.shiftRight_zero]
  omega

theorem lenField_wordOf_high (c b a opc : Byte) : (lenField (wordOf c b a opc)).extractLsb' 8 8 = b := by
  have := a.isLt; have := b.isLt
  apply BitVec.eq_of_toNat_eq
  rw [BitVec.extractLsb'_toNat, lenField_wordOf_toNat, Nat.shiftRight_eq_div_pow]
  omega

/-- A legal word is one of the table: it is its four fields, and each branch of R79 fixes those its row fixes. -/
theorem encodes_of_decodeCommand {c : Command} {i : Instr} (h : decodeCommand c = .legal i) :
    Encodes c.opv c.cw i := by
  obtain ⟨cw, opv⟩ := c
  rw [← wordOf_fields cw] at h ⊢
  generalize cField cw = C, bField cw = B, aField cw = A, opcField cw = opc at h ⊢
  simp only [decodeCommand, cField_wordOf, aField_wordOf, bField_wordOf, opcField_wordOf] at h
  split_ifs at h with hC h10 h11 h12 h13 h20 h30 h31 h40
  all_goals obtain rfl : C = 0 := not_not.1 hC
  · subst h10; obtain ⟨rfl, rfl, rfl⟩ := decodeZ_wordOf_eq_legal_iff.1 h; exact .crcinit
  · subst h11; obtain ⟨rfl, rfl⟩ := decodeA_wordOf_eq_legal_iff.1 h; exact .crcupd A
  · subst h12; obtain ⟨rfl, rfl, rfl⟩ := decodeZ_wordOf_eq_legal_iff.1 h; exact .crccalc
  · subst h13; obtain ⟨rfl, rfl, rfl⟩ := decodeZ_wordOf_eq_legal_iff.1 h; exact .crcvfy
  · subst h20; obtain rfl := Decoded.legal.inj h; exact .xbits A B
  · subst h30; obtain ⟨rfl, rfl⟩ := decodeA_wordOf_eq_legal_iff.1 h; exact .dec A
  · subst h31; obtain ⟨rfl, rfl, rfl⟩ := decodeZ_wordOf_eq_legal_iff.1 h; exact .trim
  · subst h40
    obtain rfl := Decoded.legal.inj h
    have hrow := Encodes.take (opv := opv) (lenField (wordOf 0 B A 0x40))
    rwa [lenField_wordOf_high, lenField_wordOf_low] at hrow

theorem decodeCommand_eq_legal_iff {cw : Word} {opv : DWord} {i : Instr} :
    decodeCommand ⟨cw, opv⟩ = .legal i ↔ Encodes opv cw i := by
  refine ⟨encodes_of_decodeCommand, fun h => ?_⟩
  cases h <;> simp [decodeCommand, decodeZ, decodeA, lenField_wordOf_bytes]

/-! ### Element type codes -/

theorem decodeDec_of_le {code : Byte} (h : 12 ≤ code.toNat) : decodeDec code = .decUnk code := by
  have hne (k : Byte) (hk : k.toNat < 12) : code ≠ k := by rintro rfl; omega
  simp [decodeDec, hne]

/-- A type code gives one of the twelve named commands or, from 12 on, `DEC.UNK`; encoded, it is back in field A
(R73, R75). -/
theorem decodeDec_wf_and_encodeCW (code : Byte) :
    (decodeDec code).wf = true ∧ encodeCW (decodeDec code) = wordOf 0 0 code 0x30 := by
  obtain hlt | hle := Nat.lt_or_ge code.toNat 12
  · obtain ⟨n, hn, rfl⟩ : ∃ n < 12, code = BitVec.ofNat 8 n := ⟨_, hlt, by simp⟩
    interval_cases n <;> exact ⟨rfl, rfl⟩
  · rw [decodeDec_of_le hle]
    exact ⟨decide_eq_true hle, rfl⟩

theorem Encodes.encodeCW {opv : DWord} {cw : Word} {i : Instr} (h : Encodes opv cw i) :
    i.wf = true ∧ encodeCW i = cw := by
  cases h with
  | dec code => exact decodeDec_wf_and_encodeCW code
  | crcinit | crcupd | crccalc | crcvfy | xbits | trim | take => exact ⟨rfl, rfl⟩

/-- Every well-formed command is encoded as the table says. -/
theorem encodes_encodeCW {i : Instr} (hwf : i.wf = true) (hpush : ∀ b, i ≠ .push b) :
    Encodes (encodeOPV i) (encodeCW i) i := by
  cases i with
  | push b => exact absurd rfl (hpush b)
  | crcinit => exact .crcinit
  | crcupd b => exact .crcupd b
  | crccalc => exact .crccalc
  | crcvfy => exact .crcvfy
  | xbits off size v => exact .xbits off size
  | decBool => exact .dec 0
  | decChar => exact .dec 1
  | decI8 => exact .dec 2
  | decU8 => exact .dec 3
  | decI16 => exact .dec 4
  | decU16 => exact .dec 5
  | decI32 => exact .dec 6
  | decU32 => exact .dec 7
  | decI64 => exact .dec 8
  | decU64 => exact .dec 9
  | decF32 => exact .dec 10
  | decF64 => exact .dec 11
  | decUnk code =>
    have hrow := Encodes.dec (opv := 0) code
    rwa [decodeDec_of_le (of_decide_eq_true hwf)] at hrow
  | trim => exact .trim
  | take len => exact .take len

theorem encode_of_ne_push {i : Instr} (hpush : ∀ b, i ≠ .push b) :
    encode i = .command ⟨encodeCW i, encodeOPV i⟩ := by
  cases i with
  | push b => exact absurd rfl (hpush b)
  | _ => rfl

theorem encodeOPV_of_ne_xbits {i : Instr} (hx : ∀ off size v, i ≠ .xbits off size v) : encodeOPV i = 0 := by
  cases i with
  | xbits off size v => exact absurd rfl (hx off size v)
  | _ => rfl

/-- Only XBITS looks at OPV (R70). -/
theorem Encodes.any_opv {opv : DWord} {cw : Word} {i : Instr} (h : Encodes opv cw i)
    (hx : ∀ off size v, i ≠ .xbits off size v) (opv' : DWord) : Encodes opv' cw i := by
  cases h with
  | xbits off size => exact absurd rfl (hx off size opv)
  | crcinit => exact .crcinit
  | crcupd b => exact .crcupd b
  | crccalc => exact .crccalc
  | crcvfy => exact .crcvfy
  | dec code => exact .dec code
  | trim => exact .trim
  | take len => exact .take len

theorem decodeDec_ne_xbits (code off size : Byte) (v : DWord) : decodeDec code ≠ .xbits off size v := by
  simp [decodeDec, ite_eq_iff]

theorem Encodes.xbits_opv {opv v : DWord} {cw : Word} {i : Instr} {off size : Byte} (h : Encodes opv cw i)
    (hi : i = .xbits off size v) : v = opv := by
  cases h with
  | xbits => exact (Instr.xbits.inj hi).2.2.symm
  | dec code => exact absurd hi (decodeDec_ne_xbits code off size v)
  | crcinit | crcupd | crccalc | crcvfy | trim | take => cases hi

/-- Settles O16: the encoder writes the table's row, and the decoder reads it. -/
theorem decodeInvertsEncode : Obligations.DecodeInvertsEncode := by
  intro i hwf
  by_cases hpush : ∃ b, i = .push b
  · obtain ⟨b, rfl⟩ := hpush
    rfl
  · have hne : ∀ b, i ≠ .push b := fun b hb => hpush ⟨b, hb⟩
    rw [encode_of_ne_push hne]
    exact decodeCommand_eq_legal_iff.2 (encodes_encodeCW hwf hne)

/-- Settles O17: the decoder reads only rows of the table, and the encoder writes them. -/
theorem encodeInvertsDecode : Obligations.EncodeInvertsDecode := by
  intro c i hd
  have hrow := encodes_of_decodeCommand hd
  obtain ⟨hwf, hcw⟩ := hrow.encodeCW
  have henc := encode_of_ne_push (decodeCommand_ne_push hd)
  rw [hcw] at henc
  refine ⟨hwf, hcw, ?_, fun hx => ⟨?_, fun opv => ?_⟩⟩
  · intro off size v hi
    obtain rfl := hrow.xbits_opv hi
    refine ⟨rfl, ?_⟩
    rw [henc, hi]
    rfl
  · rw [henc, encodeOPV_of_ne_xbits hx]
  · exact decodeCommand_eq_legal_iff.2 (hrow.any_opv hx opv)

/-! ## Illegal words -/

theorem decodeZ_illegal_iff {i : Instr} {cw : Word} :
    (∃ why, decodeZ i cw = .illegal why) ↔ aField cw ≠ 0 ∨ bField cw ≠ 0 := by
  unfold decodeZ
  split_ifs <;> simp_all

theorem decodeA_illegal_iff {f : Byte → Instr} {cw : Word} :
    (∃ why, decodeA f cw = .illegal why) ↔ bField cw ≠ 0 := by
  unfold decodeA
  split_ifs <;> simp_all

/-- Each check of R79 refuses what R76 and R77 call illegal. -/
theorem decodeCommand_illegal_iff (c : Command) :
    (∃ why, decodeCommand c = .illegal why) ↔ IllegalWord c.cw := by
  unfold decodeCommand
  split_ifs <;> simp_all [IllegalWord, ReservedFieldSet, opcodes, decodeZ_illegal_iff, decodeA_illegal_iff]

/-! ## One step -/

theorem step_of_host {s : State} {c : Command} {cs : List Command} {ts : List Agent} (hts : s.turns = .host :: ts)
    (hl : s.hostLine = c :: cs) :
    step s = runTransaction (.command c) { s with turns := ts, hostLine := cs } := by
  simp only [step, hts, turnOf, hostTurn, hl]

theorem step_of_rx {s : State} {b : Byte} {bs : List Byte} {ts : List Agent} (hts : s.turns = .rx :: ts)
    (hl : s.rxLine = b :: bs) : step s = runTransaction (.rx b) { s with turns := ts, rxLine := bs } := by
  simp only [step, hts, turnOf, rxTurn, hl]

theorem runTransaction_legal {c : Command} {i : Instr} (hd : decodeCommand c = .legal i) (s : State) :
    runTransaction (.command c) s = exec i s := by
  simp only [runTransaction, hd]

theorem runTransaction_illegal {c : Command} {why : Illegal} (hd : decodeCommand c = .illegal why) (s : State) :
    runTransaction (.command c) s = illegalCommand c.cw s := by
  simp only [runTransaction, hd]

/-- Settles O3: R79's checks are those of R76 and R77, and a refused word enters the fault. -/
theorem illegalWordRaisesFIllegal : Obligations.IllegalWordRaisesFIllegal := by
  refine ⟨decodeCommand_illegal_iff, by decide, by decide, fun s c cs ts hts hl hbad hfault => ?_⟩
  obtain ⟨why, hd⟩ := (decodeCommand_illegal_iff c).2 hbad
  rw [step_of_host hts hl, runTransaction_illegal hd]
  exact onCommandPort_unfaulted hfault

/-- Settles O1, by what a host's turn runs. -/
theorem stepRunsDecodedCommand : Obligations.StepRunsDecodedCommand := fun _ _ _ _ _ hts hl hd =>
  (step_of_host hts hl).trans (runTransaction_legal hd _)

/-- Settles O2, by what a turn of the RX agent runs. -/
theorem stepOffersReceivedByte : Obligations.StepOffersReceivedByte := fun _ _ _ _ hts hl =>
  ⟨rfl, step_of_rx hts hl⟩

/-- Settles O18: the decoder run on the eleven words. -/
theorem sampleWordsDecodeAsPrinted : Obligations.SampleWordsDecodeAsPrinted := by
  unfold Obligations.SampleWordsDecodeAsPrinted
  decide

end Sys2Proof.Machine
end

section
/-! PROOF. Decodes of small integers are exact (30_encoding.md R82, 41_bitfield_decoder.md R125, R142). -/

namespace Sys2Proof.Machine

/-- The integer types of at most 32 bits (R82, R142). -/
def smallIntTypes : List EType := [.char, .i8, .u8, .i16, .u16, .i32, .u32]

theorem exec_eq_next_issue (i : Instr) (s : State) : exec i s = .next (issue i s) := by
  obtain ⟨t, h⟩ := exec_completes i s
  rw [issue, h, nextOr_next]

/-- An element's pattern has no more bytes than its type's width (R124, R126). -/
theorem elementAtCursor_lt (s : State) (e : EType) : s.elementAtCursor e < 256 ^ width s.params e :=
  (le_lt _).trans_le (Nat.pow_le_pow_right (by decide) (frameBytes_length_le ..))

theorem sint_natAbs_le {w p : Nat} (hp : p < 2 ^ w) : (sint w p).natAbs ≤ 2 ^ w := by
  have hcast : ((2 ^ w : Nat) : Int) = 2 ^ w := by push_cast; rfl
  unfold sint
  split_ifs <;> omega

theorem conv_of_elementInt {e : EType} {p : Nat} {n : Int} (h : elementInt e p = some n) (d : DWord) :
    conv e p d = f64OfInt n := by
  cases e <;> simp_all [elementInt, conv]

/-- A pattern of a small integer type stands for an integer of at most 32 bits and a sign. -/
theorem elementInt_of_small {e : EType} (he : e ∈ smallIntTypes) {params : Params} {p : Nat}
    (hp : p < 256 ^ width params e) : ∃ n, elementInt e p = some n ∧ n.natAbs ≤ 2 ^ 32 := by
  have hunsigned (hlt : p < 2 ^ 32) : ∃ n, some (p : Int) = some n ∧ n.natAbs ≤ 2 ^ 32 := ⟨p, rfl, hlt.le⟩
  have hsigned {w : Nat} (hw : w ≤ 32) (hlt : p < 2 ^ w) : ∃ n, some (sint w p) = some n ∧ n.natAbs ≤ 2 ^ 32 :=
    ⟨_, rfl, (sint_natAbs_le hlt).trans (Nat.pow_le_pow_right (by decide) hw)⟩
  cases e with
  | char =>
    have hw : width params .char ≤ 2 := by cases h : params.charBytes <;> simp [width, charWidth, h]
    have hp2 : p < 256 ^ 2 := hp.trans_le (Nat.pow_le_pow_right (by decide) hw)
    exact hunsigned (by omega)
  | u8 | u16 | u32 => exact hunsigned (hp.trans_le (by simp [width]))
  | i8 | i16 | i32 => exact hsigned (by decide) hp
  | bool | i64 | u64 | f32 | f64 => simp [smallIntTypes] at he

/-- The double of an integer of at most 32 bits and a sign is the integer (R13). -/
theorem f64Value_f64OfInt_of_small {n : Int} (hn : n.natAbs ≤ 2 ^ 32) : f64Value (f64OfInt n) = n := by
  obtain rfl | hne := eq_or_ne n 0
  · simp [f64Value_eq, f64OfInt, f64OfNat, magnitude64]
  · have hlog : n.natAbs.log2 < 53 := (Nat.log2_lt (Int.natAbs_ne_zero.2 hne)).2 (by omega)
    exact f64Value_f64OfInt_of_log2_le hne (by omega) (by omega)

/-- Settles O38: the element is an integer of at most 32 bits, and its double is exact. -/
theorem integerDecodesUpTo32BitsAreExact : Obligations.IntegerDecodesUpTo32BitsAreExact := by
  unfold Obligations.IntegerDecodesUpTo32BitsAreExact
  intro r hr s w hfault hw hroom
  obtain ⟨e, he, rfl⟩ := List.mem_map.1 (show r ∈ smallIntTypes.map fun e => (decOf e, e) from hr)
  subst hw
  obtain ⟨n, hint, hn⟩ := elementInt_of_small he (elementAtCursor_lt s e)
  refine ⟨readElement e s, n, ?_, hint, ?_⟩
  · rw [exec_eq_next_issue, issue_decOf_of_room hfault hroom]
  · rw [readElement_res, conv_of_elementInt hint]
    refine ⟨isFinite64_f64OfInt (by omega), f64Value_f64OfInt_of_small hn, ?_⟩
    rintro rfl
    rfl

end Sys2Proof.Machine
end

section
/-! PROOF. The start and stop requests byte by byte, and that a finished frame verifies (30_encoding.md R81, R83,
43_link_sequences.md R177, R178). -/

namespace Sys2Proof.Machine

/-! ## A frame from its body -/

@[simp] theorem trailer_length (s : List Byte) : (trailer s).length = 2 := rfl

/-- The two bytes of the trailer are the CRC, low byte first (R104). -/
theorem le_trailer (s : List Byte) : le (trailer s) = (crc16 s).toNat := by
  have := (crc16 s).isLt
  simp only [trailer, le, BitVec.extractLsb'_toNat, Nat.shiftRight_eq_div_pow]
  omega

@[simp] theorem frameBody_frameOf (body : List Byte) : frameBody (frameOf body) = body := by
  simp [frameBody, frameOf]

@[simp] theorem frameTrailer_frameOf (body : List Byte) : frameTrailer (frameOf body) = (crc16 body).toNat := by
  simp [frameTrailer, frameOf, le_trailer]

/-- A body with its trailer verifies (R81, R103, R104). -/
theorem verify_frameOf (body : List Byte) : verify (frameOf body) = true := by
  simp [verify, show ¬ (frameOf body).length < 2 by simp [frameOf]]

/-! ## The bytes of the start request -/

/-- What the start request says of one channel: its address and its byte size (R83 (a), R177). -/
def channelBytes (p : Params) (ch : Channel) : List Byte :=
  leBytes 4 ch.addr.toNat ++ [BitVec.ofNat 8 (width p ch.etype)]

theorem startBody_eq (p : Params) (chs : List Channel) :
    startBody p chs = [0x01, 0x17] ++ chs.flatMap (channelBytes p) := rfl

@[simp] theorem channelBytes_length (p : Params) (ch : Channel) : (channelBytes p ch).length = 5 := by
  simp [channelBytes]

theorem flatMap_channelBytes_length (p : Params) (chs : List Channel) :
    (chs.flatMap (channelBytes p)).length = 5 * chs.length := by
  simp [List.length_flatMap, Nat.mul_comm]

theorem startBody_length (p : Params) (chs : List Channel) : (startBody p chs).length = 2 + 5 * chs.length := by
  simp only [startBody_eq, List.length_append, flatMap_channelBytes_length, List.length_cons, List.length_nil]

/-- Byte `j` of `le_bytes_n(v)` (R11). -/
theorem leBytes_getElem? {n j : Nat} (v : Nat) (hj : j < n) :
    (leBytes n v)[j]? = some (BitVec.ofNat 8 (v / 256 ^ j)) := by
  induction n generalizing v j with
  | zero => omega
  | succ n ih =>
    cases j with
    | zero => simp [leBytes]
    | succ j => rw [leBytes, List.getElem?_cons_succ, ih _ (by omega), Nat.div_div_eq_div_mul, ← Nat.pow_succ']

/-- The bytes of channel `k` stand at `5k` among those of all channels. -/
theorem flatMap_channelBytes_getElem? (p : Params) {chs : List Channel} {k j : Nat} {ch : Channel}
    (hk : chs[k]? = some ch) (hj : j < 5) :
    (chs.flatMap (channelBytes p))[5 * k + j]? = (channelBytes p ch)[j]? := by
  induction chs generalizing k with
  | nil => simp at hk
  | cons c chs ih =>
    rw [List.flatMap_cons]
    cases k with
    | zero =>
      obtain rfl : c = ch := by simpa using hk
      rw [List.getElem?_append_left (by simpa using hj), Nat.mul_zero, Nat.zero_add]
    | succ k =>
      rw [List.getElem?_append_right (by simp; omega), channelBytes_length,
        show 5 * (k + 1) + j - 5 = 5 * k + j by omega]
      exact ih (by simpa using hk)

theorem startRequest_getElem? (p : Params) {chs : List Channel} {k j : Nat} {ch : Channel}
    (hk : chs[k]? = some ch) (hj : j < 5) :
    (startRequest p chs)[2 + 5 * k + j]? = (channelBytes p ch)[j]? := by
  have hlt : k < chs.length := (List.getElem?_eq_some_iff.1 hk).1
  rw [startRequest, frameOf, List.getElem?_append_left (by rw [startBody_length]; omega), startBody_eq,
    List.getElem?_append_right (by simp; omega)]
  rw [show 2 + 5 * k + j - ([0x01, 0x17] : List Byte).length = 5 * k + j by simp; omega]
  exact flatMap_channelBytes_getElem? p hk hj

theorem channelBytes_addr (p : Params) (ch : Channel) {j : Nat} (hj : j < 4) :
    (channelBytes p ch)[j]? = some (ch.addr.extractLsb' (8 * j) 8) := by
  rw [channelBytes, List.getElem?_append_left (by simpa using hj), leBytes_getElem? _ hj]
  congr 1
  apply BitVec.eq_of_toNat_eq
  rw [BitVec.toNat_ofNat, BitVec.extractLsb'_toNat, Nat.shiftRight_eq_div_pow, Nat.pow_mul]

theorem channelBytes_size (p : Params) (ch : Channel) :
    (channelBytes p ch)[4]? = some (BitVec.ofNat 8 (width p ch.etype)) := by
  simp [channelBytes]

theorem byteSize_toNat (p : Params) (e : EType) : (BitVec.ofNat 8 (width p e)).toNat = width p e := by
  have := width_le p e
  rw [BitVec.toNat_ofNat, Nat.mod_eq_of_lt (by omega)]

theorem startRequest_take (p : Params) (chs : List Channel) :
    (startRequest p chs).take (2 + 5 * chs.length) = startBody p chs := by
  rw [startRequest, frameOf, ← startBody_length p chs, List.take_left]

/-- Settles O57: the start request is a frame over its body, whose bytes stand at fixed places. -/
theorem requestsCarryTheirTrailers : Obligations.RequestsCarryTheirTrailers := by
  refine ⟨fun p chs => ⟨verify_frameOf _, ?_, ?_, rfl, fun k ch hk => ⟨fun j hj => ?_, ?_⟩⟩, fun p => ?_, ?_⟩
  · rw [startRequest, frameOf, List.length_append, startBody_length, trailer_length]
  · rw [startRequest_take]
    rfl
  · rw [startRequest_getElem? p hk (by omega), channelBytes_addr p ch hj]
  · exact ⟨_, (startRequest_getElem? p hk (by omega)).trans (channelBytes_size p ch), byteSize_toNat p ch.etype⟩
  · rw [startRequest, show startBody p [] = [0x01, 0x17] from rfl]
    decide
  · decide

end Sys2Proof.Machine
end

section
/-! PROOF. How a host's wait for a frame ends (30_encoding.md R85, 43_link_sequences.md R171, R172, R179). -/

namespace Sys2Proof.Machine

/-! ## One TAKE of a wait -/

/-- `t` is `s` but for bytes of the stream that have moved into RXBUF: what turns of the RX agent can do (R80, R152). -/
def Pushed (s t : State) : Prop :=
  t.stream = s.stream ∧ s.rxbuf <+: t.rxbuf ∧ t = { s with rxbuf := t.rxbuf, rxLine := t.rxLine }

/-- `t` is `s` after a TAKE of `len` bytes that gave a frame, and pushes (R153). -/
def FrameTaken (len : Half) (s t : State) : Prop :=
  t.frame = s.stream.take len.toNat ∧ t.stream = s.stream.drop len.toNat ∧
    t = { s with frame := t.frame, rxbuf := t.rxbuf, rxLine := t.rxLine, cur := 0, cend := len, st := 0 }

theorem Pushed.trans {s t u : State} (h₁ : Pushed s t) (h₂ : Pushed t u) : Pushed s u := by
  obtain ⟨hstream₁, hprefix₁, ht⟩ := h₁
  obtain ⟨hstream₂, hprefix₂, hu⟩ := h₂
  refine ⟨hstream₂.trans hstream₁, hprefix₁.trans hprefix₂, ?_⟩
  rw [hu, ht]

theorem Pushed.stream {s t : State} (h : Pushed s t) : t.stream = s.stream := by
  obtain ⟨hstream, -⟩ := h
  exact hstream

theorem Pushed.st {s t : State} (h : Pushed s t) : t.st = s.st := by
  obtain ⟨-, -, ht⟩ := h
  rw [ht]

theorem Pushed.fault {s t : State} (h : Pushed s t) : t.fault = s.fault := by
  obtain ⟨-, -, ht⟩ := h
  rw [ht]

theorem Pushed.params {s t : State} (h : Pushed s t) : t.params = s.params := by
  obtain ⟨-, -, ht⟩ := h
  rw [ht]

theorem FrameTaken.st {len : Half} {s t : State} (h : FrameTaken len s t) : t.st = stOk := by
  obtain ⟨-, -, ht⟩ := h
  rw [ht]
  rfl

theorem FrameTaken.of_setStatus {len : Half} {s t u : State} {st : BitVec 3} (h₁ : Pushed (setStatus st s) t)
    (h₂ : FrameTaken len t u) : FrameTaken len s u := by
  obtain ⟨hstream₁, -, ht⟩ := h₁
  obtain ⟨hframe, hstream₂, hu⟩ := h₂
  rw [hstream₁] at hframe hstream₂
  refine ⟨hframe, hstream₂, ?_⟩
  rw [hu, ht]
  rfl

theorem rxTurns_pushed (k : Nat) (s : State) : Pushed s (rxTurns k s) := by
  obtain ⟨a, b, h, hstream, hprefix, -⟩ := rxTurns_spec k s
  rw [h]
  exact ⟨hstream, hprefix, rfl⟩

/-- A length that TAKE can give a frame of (R153). -/
def TakeLegal (len : Half) (p : Params) : Prop := len ≠ 0 ∧ len.toNat ≤ p.maxl

theorem issueAfter_take {s : State} (k : Nat) (len : Half) (hfault : s.fault = false) :
    issueAfter k (.take len) s = takeFrame len.toNat (encodeCW (.take len)) (rxTurns k s) :=
  issue_take len (by rw [rxTurns_fault, hfault])

/-- `n` bytes within the capacity are in RXBUF after `k` turns exactly when the stream and the turns have them (R152). -/
theorem le_rxcnt_rxTurns_iff {s : State} {k n : Nat} (hn : s.params.holds n = true) :
    n ≤ (rxTurns k s).rxcnt ↔ n ≤ s.stream.length ∧ n ≤ s.rxcnt + k := by
  obtain ⟨a, b, h, hstream, -, hle, hmoved⟩ := rxTurns_spec k s
  have hlen : a.length + b.length = s.stream.length := by rw [← List.length_append, hstream]
  rw [h]
  change n ≤ a.length ↔ _
  exact ⟨fun hna => ⟨by omega, by omega⟩, fun ⟨hs, hk⟩ => hmoved n hn hs hk⟩

/-- Where the stream has `n` bytes and a round of the wait still comes too early, each of its turns has moved one. -/
theorem rxcnt_rxTurns_of_early {s : State} {k n : Nat} (hn : s.params.holds n = true) (hlen : n ≤ s.stream.length)
    (hearly : (rxTurns k s).rxcnt < n) : (rxTurns k s).rxcnt = s.rxcnt + k := by
  have hshort : ¬(n ≤ s.stream.length ∧ n ≤ s.rxcnt + k) := by
    rw [← le_rxcnt_rxTurns_iff hn]
    omega
  have hall : s.rxcnt + k ≤ (rxTurns k s).rxcnt :=
    (le_rxcnt_rxTurns_iff (holds_mono (by omega) hn)).2 ⟨by omega, le_rfl⟩
  have hmost := (le_rxcnt_rxTurns_iff (k := k) (holds_mono hearly.le hn)).1 le_rfl
  omega

/-- A round that comes too early leaves the frame to the later rounds. -/
theorem arrives_cons_iff {s t : State} {k n : Nat} (ks : List Nat) (hn : s.params.holds n = true)
    (hstream : t.stream = s.stream) (hcnt : t.rxcnt = (rxTurns k s).rxcnt) (hearly : (rxTurns k s).rxcnt < n) :
    s.Arrives n (k :: ks) ↔ t.Arrives n ks := by
  have hmoved := rxcnt_rxTurns_of_early hn (k := k)
  simp only [State.Arrives, hstream, hcnt, List.sum_cons]
  constructor
  · rintro ⟨-, hlen, hsum⟩
    have := hmoved hlen hearly
    refine ⟨?_, hlen, by omega⟩
    rintro rfl
    simp only [List.sum_nil] at hsum
    omega
  · rintro ⟨-, hlen, hsum⟩
    have := hmoved hlen hearly
    exact ⟨by simp, hlen, by omega⟩

/-! ## POLLTAKE -/

/-- One round of a wait for a legal length: the frame is in, and TAKE gives it; or it is not, and TAKE answers
INSUFFICIENT (R153). -/
theorem issueAfter_take_cases {s : State} (k : Nat) {len : Half} (hfault : s.fault = false)
    (hlegal : TakeLegal len s.params) (hn : s.params.holds len.toNat = true) :
    (s.Arrives len.toNat [k] ∧ FrameTaken len s (issueAfter k (.take len) s)) ∨
      ((rxTurns k s).rxcnt < len.toNat ∧ (issueAfter k (.take len) s).rxcnt = (rxTurns k s).rxcnt ∧
        Pushed (setStatus stInsufficient s) (issueAfter k (.take len) s)) := by
  obtain ⟨hne, hmax⟩ := hlegal
  obtain ⟨hstream, hprefix, hpushed⟩ := rxTurns_pushed k s
  rw [issueAfter_take k len hfault]
  obtain ⟨hbad, -⟩ | ⟨-, -, hearly, h⟩ | ⟨-, -, hin, h⟩ :=
      takeFrame_cases len.toNat (encodeCW (.take len)) (rxTurns k s)
  · rw [rxTurns_params] at hbad
    obtain h0 | hlt := hbad
    · exact absurd (BitVec.eq_of_toNat_eq h0) hne
    · exact absurd hmax hlt.not_ge
  · rw [h]
    refine .inr ⟨hearly, rfl, hstream, hprefix, ?_⟩
    rw [hpushed]
    rfl
  · rw [h]
    obtain ⟨hlen, hk⟩ := (le_rxcnt_rxTurns_iff hn).1 hin
    refine .inl ⟨⟨by simp, hlen, by simpa using hk⟩, ?_, ?_, ?_⟩
    · rw [← hstream, State.stream, List.take_append_of_le_length hin]
      rfl
    · rw [← hstream, State.stream, State.stream, List.drop_append_of_le_length hin]
      rfl
    · rw [hpushed]
      simp [setStatus, moveFrame, stOk]

/-- POLLTAKE of a legal length: the frame arrives and is taken, or it does not, and the wait has only pushed and left ST
at INSUFFICIENT, if it has issued a TAKE at all (R85, R179). -/
theorem pollTake_cases {len : Half} (waits : List Nat) {s : State} (hfault : s.fault = false)
    (hlegal : TakeLegal len s.params) (hn : s.params.holds len.toNat = true) :
    (s.Arrives len.toNat waits ∧ ∃ t, pollTake len waits s = (t, .taken) ∧ FrameTaken len s t) ∨
      (¬ s.Arrives len.toNat waits ∧ ∃ t, pollTake len waits s = (t, .stopped) ∧
        Pushed (setStatus (if waits = [] then s.st else stInsufficient) s) t) := by
  induction waits generalizing s with
  | nil => exact .inr ⟨by simp [State.Arrives], s, rfl, rfl, List.prefix_rfl, rfl⟩
  | cons k ks ih =>
    rw [pollTake_cons]
    obtain ⟨⟨-, hlen, hk⟩, htaken⟩ | ⟨hearly, hcnt, hwait⟩ := issueAfter_take_cases k hfault hlegal hn
    · refine .inl ⟨⟨by simp, hlen, by simp only [List.sum_cons, List.sum_nil] at hk ⊢; omega⟩, _, ?_, htaken⟩
      rw [htaken.st]
      rfl
    · set t := issueAfter k (.take len) s
      have hiff := arrives_cons_iff ks hn hwait.stream hcnt hearly
      have hst : t.st = stInsufficient := hwait.st
      have hsame : setStatus (if ks = [] then t.st else stInsufficient) t = t := by
        rw [hst, ite_self, ← hst]
        rfl
      rw [if_pos hst, if_neg (List.cons_ne_nil k ks), hiff]
      obtain ⟨harr, u, hpoll, htaken⟩ | ⟨hnot, u, hpoll, hpush⟩ :=
        ih (hwait.fault.trans hfault) (hwait.params ▸ hlegal) (hwait.params ▸ hn)
      · exact .inl ⟨harr, u, hpoll, htaken.of_setStatus hwait⟩
      · exact .inr ⟨hnot, u, hpoll, hwait.trans (hsame ▸ hpush)⟩

/-- POLLTAKE of a length outside 1..MAXL faults at its first TAKE (R153, R171). -/
theorem pollTake_out_of_range {len : Half} (k : Nat) (ks : List Nat) {s : State} (hfault : s.fault = false)
    (hbad : len.toNat = 0 ∨ s.params.maxl < len.toNat) :
    pollTake len (k :: ks) s = (raiseFault causeLen (encodeCW (.take len)) (rxTurns k s), .faulted) := by
  have h : issueAfter k (.take len) s = raiseFault causeLen (encodeCW (.take len)) (rxTurns k s) := by
    rw [issueAfter_take k len hfault]
    obtain ⟨-, h⟩ | ⟨hne, hmax, -⟩ | ⟨hne, hmax, -⟩ :=
      takeFrame_cases len.toNat (encodeCW (.take len)) (rxTurns k s)
    · exact h
    all_goals
      rw [rxTurns_params] at hmax
      omega
  rw [pollTake_cons, h]
  rfl

/-! ## The length a capture asks for -/

/-- Legal parameters make every frame length up to MAXL one that TAKE can ask for and the buffer can hold (R8, R171). -/
theorem takeLength_legal {p : Params} {n : Nat} (hp : p.Wf) (h0 : n ≠ 0) (hmax : n ≤ p.maxl) :
    (takeLength n).toNat = n ∧ TakeLegal (takeLength n) p ∧ p.holds n = true := by
  obtain ⟨-, hle, hcap⟩ := hp
  have hn := takeLength_toNat (n := n) (by omega)
  refine ⟨hn, ⟨?_, by rwa [hn]⟩, holds_mono hmax hcap⟩
  intro hzero
  rw [hzero] at hn
  exact h0 hn.symm

theorem captureFrame_of_taken {chs : List Channel} {waits : List Nat} (gaps : Gaps) {s t : State}
    (h : pollTake (takeLength (frameLength s.params chs)) waits s = (t, .taken)) :
    captureFrame chs waits gaps s = captureTaken chs gaps t := by
  simp only [captureFrame, h]

theorem captureFrame_of_faulted {chs : List Channel} {waits : List Nat} (gaps : Gaps) {s t : State}
    (h : pollTake (takeLength (frameLength s.params chs)) waits s = (t, .faulted)) :
    captureFrame chs waits gaps s = (t, .faulted) := by
  simp only [captureFrame, h]

theorem captureFrame_of_stopped {chs : List Channel} {waits : List Nat} (gaps : Gaps) {s t : State}
    (h : pollTake (takeLength (frameLength s.params chs)) waits s = (t, .stopped)) :
    captureFrame chs waits gaps s = (t, .stopped) := by
  simp only [captureFrame, h]

/-- The wait of CAPTURE-FRAME for a frame of legal length (R172 line 1). -/
theorem capture_pollTake_cases (chs : List Channel) (waits : List Nat) {s : State} (hfault : s.fault = false)
    (hp : s.params.Wf) (hmax : frameLength s.params chs ≤ s.params.maxl) :
    (s.Arrives (frameLength s.params chs) waits ∧ ∃ t,
        pollTake (takeLength (frameLength s.params chs)) waits s = (t, .taken) ∧
          FrameTaken (takeLength (frameLength s.params chs)) s t) ∨
      (¬ s.Arrives (frameLength s.params chs) waits ∧ ∃ t,
        pollTake (takeLength (frameLength s.params chs)) waits s = (t, .stopped) ∧
          Pushed (setStatus (if waits = [] then s.st else stInsufficient) s) t) := by
  obtain ⟨hn, hlegal, hholds⟩ := takeLength_legal hp (by simp [frameLength]) hmax
  have hcases := pollTake_cases waits hfault hlegal (by rwa [hn])
  rwa [hn] at hcases

/-- Settles O55, by the three ways in which POLLTAKE ends. -/
theorem captureWaitsForTheWholeFrame : Obligations.CaptureWaitsForTheWholeFrame := by
  refine ⟨fun s len waits hfault hp hne hmax harr => ?_, fun s chs waits gaps hfault hp hmax hlate => ?_,
    fun s chs k waits gaps hfault hlong => ?_⟩
  · obtain ⟨-, -, hcap⟩ := hp
    obtain ⟨-, t, hpoll, htaken⟩ := (pollTake_cases waits hfault ⟨hne, hmax⟩ (holds_mono hmax hcap)).resolve_right
      fun ⟨hnot, _⟩ => hnot harr
    exact ⟨t, hpoll, htaken⟩
  · obtain ⟨-, t, hpoll, hstream, hprefix, ht⟩ := (capture_pollTake_cases chs waits hfault hp hmax).resolve_left
      fun ⟨harr, _⟩ => hlate harr
    exact ⟨t, captureFrame_of_stopped gaps hpoll, hstream, hprefix, ht⟩
  · obtain ⟨a, b, hpushed, hstream, -⟩ := rxTurns_spec k s
    have hpoll := pollTake_out_of_range k waits hfault (takeLength_out_of_range (.inr hlong))
    rw [hpushed] at hpoll
    exact ⟨_, captureFrame_of_faulted gaps hpoll, hstream, rfl⟩

end Sys2Proof.Machine
end

section
/-! PROOF. Sequence CAPTURE-FRAME on a frame that verifies: every channel's sample is the one R173 names, whatever is
pushed between the commands (30_encoding.md R83, 43_link_sequences.md R171 to R173, 20_memory.md R60). -/

namespace Sys2Proof.Machine

/-! ## A block that decodes a frame -/

/-- What stays while a frame is decoded: the parameters, the frame, the stream behind it and the window's end. -/
structure Decoding where
  params : Params
  frame : List Byte
  stream : List Byte
  cend : Nat

/-- The block, unfaulted and with ST OK, decodes `d` and its cursor is at byte `pos`. -/
structure Decoding.At (d : Decoding) (pos : Nat) (s : State) : Prop where
  good : s.fault = false
  st : s.st = stOk
  params : s.params = d.params
  frame : s.frame = d.frame
  stream : s.stream = d.stream
  cur : s.cur.toNat = pos
  cend : s.cend.toNat = d.cend

/-- The raw pattern of an element of type `e` at byte `pos` of the frame (R126). -/
def Decoding.pattern (d : Decoding) (pos : Nat) (e : EType) : Nat :=
  le ((d.frame.drop pos).take (width d.params e))

variable {d : Decoding} {pos : Nat} {s : State}

theorem Decoding.At.rxTurns (h : d.At pos s) (k : Nat) : d.At pos (rxTurns k s) where
  good := by rw [rxTurns_fault, h.good]
  st := by rw [rxTurns_st, h.st]
  params := by rw [rxTurns_params, h.params]
  frame := by rw [rxTurns_frame, h.frame]
  stream := by rw [(rxTurns_pushed k s).stream, h.stream]
  cur := by rw [rxTurns_cur, h.cur]
  cend := by rw [rxTurns_cend, h.cend]

theorem Decoding.At.elementAtCursor (h : d.At pos s) (e : EType) : s.elementAtCursor e = d.pattern pos e := by
  rw [State.elementAtCursor, State.memRead, State.frameBytes, h.frame, h.cur, h.params]
  rfl

theorem Decoding.At.readElement (h : d.At pos s) {e : EType} (hroom : (width s.params e : Int) ≤ s.windowLeft) :
    d.At (pos + width d.params e) (readElement e s) where
  good := h.good
  st := rfl
  params := h.params
  frame := h.frame
  stream := h.stream
  cur := by rw [readElement_cur_toNat hroom, h.cur, h.params]
  cend := h.cend

/-- DEC, after any pushes, reads the element at the cursor into RAW and RES and moves the cursor behind it (R60, R126). -/
theorem Decoding.At.dec (h : d.At pos s) {e : EType} (hend : pos + width d.params e ≤ d.cend) (k : Nat) :
    d.At (pos + width d.params e) (issueAfter k (decOf e) s) ∧
      (issueAfter k (decOf e) s).raw.toNat = d.pattern pos e ∧
      ∃ nan, (issueAfter k (decOf e) s).res = conv e (d.pattern pos e) nan := by
  have ht := h.rxTurns k
  have hroom : (width (Machine.rxTurns k s).params e : Int) ≤ (Machine.rxTurns k s).windowLeft := by
    rw [State.windowLeft, ht.params, ht.cur, ht.cend]
    omega
  rw [issueAfter, issue_decOf_of_room ht.good hroom, readElement_raw_toNat, readElement_res, ht.elementAtCursor]
  exact ⟨ht.readElement hroom, rfl, _, rfl⟩

/-- The unsigned field that a channel's bit offset and size cut from a raw pattern (R121, R173). -/
def Channel.field (ch : Channel) (p : Nat) : Nat := p / 2 ^ ch.bitOffset.toNat % 2 ^ ch.bitSize.toNat

/-- XBITS, after any pushes, cuts the field out of its operand and leaves the decoding alone (R60, R122). -/
theorem Decoding.At.xbits (h : d.At pos s) (k : Nat) {ch : Channel} (v : DWord) (hsize : ch.bitSize ≠ 0) :
    d.At pos (issueAfter k (.xbits ch.bitOffset ch.bitSize v) s) ∧
      (issueAfter k (.xbits ch.bitOffset ch.bitSize v) s).res.toNat = ch.field v.toNat := by
  have ht := h.rxTurns k
  rw [issueAfter, issue_xbits _ _ _ ht.good]
  refine ⟨⟨ht.good, rfl, ht.params, ht.frame, ht.stream, ht.cur, ht.cend⟩, ?_⟩
  have hne : ch.bitSize.toNat ≠ 0 := fun h0 => hsize (BitVec.eq_of_toNat_eq h0)
  have hle : ch.field v.toNat ≤ v.toNat := (Nat.mod_le _ _).trans (Nat.div_le_self _ _)
  rw [setStatus_res, extractBits, if_neg hne, BitVec.toNat_ofNat]
  exact Nat.mod_eq_of_lt (hle.trans_lt v.isLt)

/-! ## The sample of a channel -/

/-- `v` is the channel's sample of the raw pattern `p`: the whole element, or its field as 1.0 or 0.0 for BOOL and as a
number for the other types (R173). -/
def Channel.IsSample (ch : Channel) (p : Nat) (v : DWord) : Prop :=
  (ch.bitSize = 0 ∨ ch.etype = .f32 ∨ ch.etype = .f64 → ∃ nan, v = conv ch.etype p nan) ∧
    (ch.bitSize ≠ 0 → ch.etype = .bool → v = if ch.field p = 0 then 0 else 0x3FF0000000000000) ∧
    (ch.bitSize ≠ 0 → ch.etype ≠ .bool → ch.etype ≠ .f32 → ch.etype ≠ .f64 → v = f64OfInt (ch.field p))

theorem Channel.whole_iff (ch : Channel) :
    ch.whole = true ↔ ch.bitSize = 0 ∨ ch.etype = .f32 ∨ ch.etype = .f64 := by
  simp [Channel.whole, or_assoc]

theorem Channel.isSample_of_whole {ch : Channel} (hw : ch.whole = true) {p : Nat} (nan : DWord) :
    ch.IsSample p (conv ch.etype p nan) := by
  refine ⟨fun _ => ⟨nan, rfl⟩, fun hsize hbool => ?_, fun hsize _ h32 h64 => ?_⟩
  · obtain h0 | h | h := ch.whole_iff.1 hw
    · exact absurd h0 hsize
    · rw [hbool] at h; cases h
    · rw [hbool] at h; cases h
  · obtain h0 | h | h := ch.whole_iff.1 hw
    · exact absurd h0 hsize
    · exact absurd h h32
    · exact absurd h h64

theorem Channel.isSample_of_field {ch : Channel} (hw : ch.whole = false) {p : Nat} {res : DWord}
    (hres : res.toNat = ch.field p) :
    ch.IsSample p
      (if ch.etype = .bool then (if res ≠ 0 then 0x3FF0000000000000 else 0) else f64OfInt res.toNat) := by
  have hzero : res = 0 ↔ ch.field p = 0 := by rw [← hres, BitVec.toNat_eq]; rfl
  refine ⟨fun hwhole => ?_, fun _ hbool => ?_, fun _ hbool _ _ => ?_⟩
  · rw [ch.whole_iff.2 hwhole] at hw
    cases hw
  · simp only [if_pos hbool, ne_eq, hzero, ite_not]
  · rw [if_neg hbool, hres]

/-- One channel decodes its element at the cursor, and its sample is the one R173 names. -/
theorem Decoding.At.sampleChannel (h : d.At pos s) {ch : Channel} (hend : pos + width d.params ch.etype ≤ d.cend)
    (gaps : Gaps) :
    d.At (pos + width d.params ch.etype) (sampleChannel ch gaps s).1 ∧
      ch.IsSample (d.pattern pos ch.etype) (sampleChannel ch gaps s).2 := by
  obtain ⟨ht, hraw, nan, hres⟩ := h.dec hend (gaps 0)
  unfold Machine.sampleChannel
  cases hw : ch.whole with
  | true =>
    refine ⟨ht, ?_⟩
    simp only [if_true, hres]
    exact Channel.isSample_of_whole hw nan
  | false =>
    have hsize : ch.bitSize ≠ 0 := fun h0 => by simp [Channel.whole, h0] at hw
    obtain ⟨hu, hfield⟩ := ht.xbits (gaps 1) (issueAfter (gaps 0) (decOf ch.etype) s).raw hsize
    rw [hraw] at hfield
    exact ⟨hu, Channel.isSample_of_field hw hfield⟩

theorem payloadLength_cons (p : Params) (ch : Channel) (chs : List Channel) :
    payloadLength p (ch :: chs) = width p ch.etype + payloadLength p chs := by
  simp [payloadLength]

/-- The channels decode their elements one behind the other, one sample each (R172 lines 5 to 7). -/
theorem Decoding.At.sampleChannels (h : d.At pos s) (chs : List Channel)
    (hend : pos + payloadLength d.params chs ≤ d.cend) (gaps : Gaps) :
    d.At (pos + payloadLength d.params chs) (sampleChannels chs gaps s).1 ∧
      (sampleChannels chs gaps s).2.length = chs.length ∧
      ∀ (k : Nat) (ch : Channel), chs[k]? = some ch → ∃ v, (sampleChannels chs gaps s).2[k]? = some v ∧
        ch.IsSample (d.pattern (pos + payloadLength d.params (chs.take k)) ch.etype) v := by
  induction chs generalizing pos gaps s with
  | nil => exact ⟨h, rfl, by simp⟩
  | cons c chs ih =>
    rw [payloadLength_cons, ← Nat.add_assoc] at hend ⊢
    obtain ⟨ht, hsample⟩ := h.sampleChannel (ch := c) (by omega) gaps
    obtain ⟨hu, hlen, hrest⟩ := ih ht hend (gapsFrom 2 gaps)
    refine ⟨hu, by simp [Machine.sampleChannels, hlen], fun k ch hk => ?_⟩
    cases k with
    | zero =>
      obtain rfl : c = ch := by simpa using hk
      exact ⟨_, rfl, hsample⟩
    | succ k =>
      rw [List.take_succ_cons, payloadLength_cons, ← Nat.add_assoc]
      exact hrest k ch (by simpa using hk)

/-! ## CAPTURE-FRAME -/

theorem two_le_length_of_verify {f : List Byte} (h : verify f = true) : 2 ≤ f.length := by
  by_contra hlt
  rw [verify, if_pos (by omega)] at h
  cases h

/-- CRCVFY, after any pushes, answers OK on a frame that verifies and leaves the decoding alone (R60, R110). -/
theorem Decoding.At.crcvfy (h : d.At pos s) (hverify : verify d.frame = true) (k : Nat) :
    d.At pos (issueAfter k .crcvfy s) := by
  have ht := h.rxTurns k
  have hlen := two_le_length_of_verify hverify
  rw [issueAfter, issue_crcvfy ht.good]
  obtain ⟨hshort, -⟩ | ⟨-, he⟩ := verifyFrame_cases (Machine.rxTurns k s)
  · rw [ht.frame] at hshort
    omega
  · rw [he]
    have hst : (if verify (Machine.rxTurns k s).frame then stOk else stCrcBad) = stOk := by rw [ht.frame, if_pos hverify]
    exact ⟨ht.good, hst, ht.params, ht.frame, ht.stream, ht.cur, ht.cend⟩

/-- TRIM, after any pushes, rewinds the cursor and ends the window at the payload's end (R60, R140). -/
theorem Decoding.At.trim (h : d.At pos s) {n : Nat} (hlen : d.frame.length = n + 2) (hmax : n < 2 ^ 16) (k : Nat) :
    Decoding.At { d with cend := n } 0 (issueAfter k .trim s) := by
  have ht := h.rxTurns k
  rw [issueAfter, issue_trim ht.good]
  obtain ⟨hshort, -⟩ | ⟨-, he⟩ := trimWindow_cases (encodeCW .trim) (Machine.rxTurns k s)
  · rw [ht.frame] at hshort
    omega
  · rw [he]
    refine ⟨ht.good, rfl, ht.params, ht.frame, ht.stream, rfl, ?_⟩
    rw [ht.frame, hlen, Nat.add_sub_cancel, BitVec.toNat_ofNat, Nat.mod_eq_of_lt hmax]

/-- TAKE leaves the cursor at the frame's first byte (R153). -/
theorem FrameTaken.at_zero {len : Half} {s t : State} (h : FrameTaken len s t) (hfault : s.fault = false) :
    Decoding.At ⟨s.params, s.stream.take len.toNat, s.stream.drop len.toNat, len.toNat⟩ 0 t := by
  obtain ⟨hframe, hstream, ht⟩ := h
  rw [ht]
  exact ⟨hfault, rfl, rfl, hframe, hstream, rfl, rfl⟩

/-- A frame that verifies is decoded channel by channel, up to the payload's end (R172 lines 2 to 8). -/
theorem Decoding.At.captureTaken (h : d.At pos s) {chs : List Channel} (hverify : verify d.frame = true)
    (hlen : d.frame.length = frameLength d.params chs) (hmax : d.frame.length ≤ 65535) (gaps : Gaps) :
    ∃ t vs, captureTaken chs gaps s = (t, .emitted vs) ∧
      Decoding.At { d with cend := payloadLength d.params chs } (payloadLength d.params chs) t ∧
      vs.length = chs.length ∧
      ∀ (k : Nat) (ch : Channel), chs[k]? = some ch → ∃ v, vs[k]? = some v ∧
        ch.IsSample (d.pattern (payloadLength d.params (chs.take k)) ch.etype) v := by
  have hcrc := h.crcvfy hverify (gaps 0)
  have htrim := hcrc.trim hlen (by rw [frameLength] at hlen; omega) (gaps 1)
  obtain ⟨hend, hcount, hsamples⟩ := htrim.sampleChannels chs (Nat.zero_add _).le (gapsFrom 2 gaps)
  simp only [Nat.zero_add] at hend hsamples
  refine ⟨_, _, ?_, hend, hcount, hsamples⟩
  rw [Machine.captureTaken, if_pos hcrc.st]

/-- Settles O53: the wait ends with the frame, and the decoding of a verified frame runs through its payload. -/
theorem captureDecodesAVerifiedFrame : Obligations.CaptureDecodesAVerifiedFrame := by
  intro s chs waits gaps hfault hp hmax harr hverify
  obtain ⟨-, u, hpoll, htaken⟩ := (capture_pollTake_cases chs waits hfault hp hmax).resolve_right
    fun ⟨hnot, _⟩ => hnot harr
  obtain ⟨-, hle, -⟩ := hp
  obtain ⟨-, harrived, -⟩ := harr
  have hat := htaken.at_zero hfault
  rw [takeLength_toNat (hmax.trans hle)] at hat
  have hlen : (s.stream.take (frameLength s.params chs)).length = frameLength s.params chs :=
    List.length_take_of_le harrived
  obtain ⟨t, vs, hcapture, hend, hcount, hsamples⟩ := hat.captureTaken hverify hlen (hlen.le.trans (hmax.trans hle)) gaps
  refine ⟨t, vs, (captureFrame_of_taken gaps hpoll).trans hcapture, hcount, hend.good, hend.st, hend.frame,
    hend.stream, hend.cur, hend.cend, fun k ch p f hk hpat hfield => ?_⟩
  obtain ⟨v, hv, hwhole, hbool, hnumber⟩ := hsamples k ch hk
  rw [hend.frame] at hpat
  subst hpat hfield
  rw [hv]
  refine ⟨fun h => ?_, fun hsize h => ?_, fun hsize h h32 h64 => ?_⟩
  · obtain ⟨nan, hconv⟩ := hwhole h
    exact ⟨nan, congrArg some hconv⟩
  · exact congrArg some (hbool hsize h)
  · exact congrArg some (hnumber hsize h h32 h64)

end Sys2Proof.Machine
end

section
/-! PROOF. The CRC16 unit's functions. A shift step is linear over XOR and loses nothing, so the byte step is one to one
in the accumulator and in the byte, and the one byte pair that steps an accumulator to zero is its own two bytes
(40_crc16.md R100 to R105, R108). -/

namespace Sys2Proof.Machine

/-! ## Shift steps -/

theorem crcShift_of_even {c : Half} (h : c.getLsbD 0 = false) : crcShift c = c >>> 1 :=
  if_neg (by rw [h]; exact Bool.false_ne_true)

theorem crcShift_getLsbD (c : Half) (i : Nat) :
    (crcShift c).getLsbD i = (c.getLsbD (1 + i) ^^ (c.getLsbD 0 && Config.crcPoly.getLsbD i)) := by
  unfold crcShift
  split <;> simp_all

theorem crcShift_xor (c d : Half) : crcShift (c ^^^ d) = crcShift c ^^^ crcShift d := by
  refine BitVec.eq_of_getLsbD_eq fun i _ => ?_
  simp only [BitVec.getLsbD_xor, crcShift_getLsbD, Bool.and_xor_distrib_right, Bool.xor_assoc, Bool.xor_left_comm]

/-- The bit shifted out comes back as bit 15, which the polynomial sets, so a shift step loses no bit. -/
theorem crcShift_eq_zero_iff {c : Half} : crcShift c = 0 ↔ c = 0 := by
  refine ⟨fun h => BitVec.eq_of_getLsbD_eq fun i _ => ?_, by rintro rfl; rfl⟩
  have hbit (i : Nat) : (c.getLsbD (1 + i) ^^ (c.getLsbD 0 && Config.crcPoly.getLsbD i)) = false := by
    rw [← crcShift_getLsbD, h]
    exact BitVec.getLsbD_zero
  have hlow : c.getLsbD 0 = false := by simpa [Config.crcPoly] using hbit 15
  rw [show (0 : Half).getLsbD i = false from BitVec.getLsbD_zero]
  cases i with
  | zero => exact hlow
  | succ i =>
    rw [Nat.add_comm]
    simpa only [hlow, Bool.false_and, Bool.xor_false] using hbit i

theorem crcShifts_xor (n : Nat) (c d : Half) : crcShifts n (c ^^^ d) = crcShifts n c ^^^ crcShifts n d := by
  induction n generalizing c d with
  | zero => rfl
  | succ n ih => simp only [crcShifts, crcShift_xor, ih]

theorem crcShifts_eq_zero_iff {n : Nat} {c : Half} : crcShifts n c = 0 ↔ c = 0 := by
  induction n generalizing c with
  | zero => rfl
  | succ n ih => rw [crcShifts, ih, crcShift_eq_zero_iff]

theorem crcShifts_inj {n : Nat} {c d : Half} : crcShifts n c = crcShifts n d ↔ c = d := by
  have hzero := crcShifts_eq_zero_iff (n := n) (c := c ^^^ d)
  rw [crcShifts_xor] at hzero
  exact BitVec.xor_eq_zero_iff.symm.trans (hzero.trans BitVec.xor_eq_zero_iff)

theorem crcShifts_add (m n : Nat) (c : Half) : crcShifts (m + n) c = crcShifts n (crcShifts m c) := by
  induction m generalizing c with
  | zero => rw [Nat.zero_add, crcShifts]
  | succ m ih => rw [Nat.add_right_comm, crcShifts, crcShifts, ih]

/-- While the bits that go out are zero, the shift steps only shift. -/
theorem crcShifts_of_low_zero {n : Nat} {c : Half} (h : ∀ i < n, c.getLsbD i = false) :
    crcShifts n c = c >>> n := by
  induction n generalizing c with
  | zero => exact (BitVec.ushiftRight_zero c).symm
  | succ n ih =>
    have hrest : ∀ i < n, (c >>> 1).getLsbD i = false := fun i hi => by
      rw [BitVec.getLsbD_ushiftRight]
      exact h (1 + i) (by omega)
    rw [crcShifts, crcShift_of_even (h 0 n.succ_pos), ih hrest, ← BitVec.shiftRight_add, Nat.add_comm]

/-! ## The two bytes of a half word, the high one first -/

theorem half_eq_append_iff {c : Half} {x y : Byte} :
    c = y ++ x ↔ x = c.extractLsb' 0 8 ∧ y = c.extractLsb' 8 8 := by
  constructor
  · rintro rfl
    exact ⟨BitVec.extractLsb'_append_eq_right.symm, BitVec.extractLsb'_append_eq_left.symm⟩
  · rintro ⟨rfl, rfl⟩
    exact (BitVec.extractLsb'_append_extractLsb' (w := 8) (len := 8)).symm

theorem append_toNat (x y : Byte) : (y ++ x).toNat = x.toNat + 256 * y.toNat := by
  have hor := Nat.two_pow_add_eq_or_of_lt x.isLt y.toNat
  rw [BitVec.toNat_append, Nat.shiftLeft_eq, Nat.mul_comm, ← hor, Nat.add_comm]

theorem append_ushiftRight_eight (h l : Byte) : (h ++ l : Half) >>> 8 = (0 : Byte) ++ h := by
  refine BitVec.eq_of_getLsbD_eq fun i hi => ?_
  rw [BitVec.getLsbD_ushiftRight, BitVec.getLsbD_append, BitVec.getLsbD_append]
  simpa using BitVec.lt_of_getLsbD

theorem zeroExtend_eq_append (b : Byte) : b.zeroExtend 16 = ((0 : Byte) ++ b : Half) :=
  BitVec.setWidth_eq_append (by decide)

theorem zeroExtend_inj {b b' : Byte} : (b.zeroExtend 16 : Half) = b'.zeroExtend 16 ↔ b = b' := by
  rw [zeroExtend_eq_append, zeroExtend_eq_append]
  exact BitVec.append_right_inj 0

/-! ## The byte step -/

/-- Eight shift steps move the high byte down unchanged. -/
theorem crcShifts_append_zero (h : Byte) : crcShifts 8 (h ++ (0 : Byte)) = (0 : Byte) ++ h := by
  rw [← append_ushiftRight_eight h 0]
  refine crcShifts_of_low_zero fun i hi => ?_
  rw [BitVec.getLsbD_append, if_pos hi]
  exact BitVec.getLsbD_zero

/-- The high byte of the accumulator only moves down, and the low one goes through the table (R101). -/
theorem crcStep_eq_crcShifts (c : Half) (b : Byte) : crcStep c b = crcShifts 8 (c ^^^ b.zeroExtend 16) := by
  obtain ⟨h, l, rfl⟩ : ∃ h l : Byte, c = h ++ l := ⟨_, _, half_eq_append_iff.2 ⟨rfl, rfl⟩⟩
  have hlow : (h ++ l : Half).truncate 8 = l := BitVec.setWidth_append_eq_right
  have hsplit : (h ++ l : Half) ^^^ b.zeroExtend 16 = (h ++ (0 : Byte)) ^^^ (l ^^^ b).zeroExtend 16 := by
    rw [zeroExtend_eq_append, zeroExtend_eq_append, BitVec.xor_append, BitVec.xor_append]
    simp
  rw [hsplit, crcShifts_xor, crcShifts_append_zero, crcStep, append_ushiftRight_eight, hlow, crcTab]

/-- Two byte steps are sixteen shift steps that take in both bytes at once. -/
theorem crcStep_crcStep (c : Half) (x y : Byte) : crcStep (crcStep c x) y = crcShifts 16 (c ^^^ (y ++ x)) := by
  have hpair : (y ++ x : Half) = x.zeroExtend 16 ^^^ (y ++ (0 : Byte)) := by
    rw [zeroExtend_eq_append, BitVec.xor_append]
    simp
  rw [hpair, ← BitVec.xor_assoc, crcShifts_add 8 8, crcShifts_xor, crcShifts_append_zero, ← zeroExtend_eq_append,
    crcStep_eq_crcShifts, crcStep_eq_crcShifts]

theorem crcStep_crcStep_eq_zero_iff {c : Half} {x y : Byte} : crcStep (crcStep c x) y = 0 ↔ c = y ++ x := by
  rw [crcStep_crcStep, crcShifts_eq_zero_iff]
  exact BitVec.xor_eq_zero_iff

theorem crcStep_left_inj {c d : Half} {b : Byte} : crcStep c b = crcStep d b ↔ c = d := by
  rw [crcStep_eq_crcShifts, crcStep_eq_crcShifts, crcShifts_inj, BitVec.xor_left_inj]

theorem crcStep_right_inj {c : Half} {b b' : Byte} : crcStep c b = crcStep c b' ↔ b = b' := by
  rw [crcStep_eq_crcShifts, crcStep_eq_crcShifts, crcShifts_inj, BitVec.xor_right_inj, zeroExtend_inj]

/-- The index of the table entry, the low byte of `c ^ b` (R101). -/
theorem low_byte_xor (c : Half) (b : Byte) :
    BitVec.ofNat 8 ((c ^^^ b.zeroExtend 16) &&& 0xFF).toNat = c.truncate 8 ^^^ b := by
  have hmask : (0xFF : Half).setWidth 8 = BitVec.allOnes 8 := rfl
  rw [BitVec.ofNat_toNat, BitVec.setWidth_and, hmask, BitVec.and_allOnes, BitVec.setWidth_xor,
    BitVec.setWidth_setWidth_of_le _ (by decide), BitVec.setWidth_eq]

/-- Settles O20: the table's index is the low byte of `c ^ b`, and the shift steps are linear. -/
theorem byteStepAgreesWithBitwiseForm : Obligations.ByteStepAgreesWithBitwiseForm := fun c b =>
  ⟨by rw [low_byte_xor, crcStep], crcStep_eq_crcShifts c b⟩

/-! ## The CRC of a byte string -/

theorem crcFold_append (c : Half) (s t : List Byte) : crcFold c (s ++ t) = crcFold (crcFold c s) t :=
  List.foldl_append

theorem crcFold_left_inj {c d : Half} {s : List Byte} : crcFold c s = crcFold d s ↔ c = d := by
  induction s generalizing c d with
  | nil => rfl
  | cons b s ih => exact ih.trans crcStep_left_inj

theorem crc16_set {s : List Byte} {i : Nat} (hi : i < s.length) (b : Byte) :
    crc16 (s.set i b) = crcFold (crcStep (crc16 (s.take i)) b) (s.drop (i + 1)) := by
  rw [List.set_eq_take_append_cons_drop, if_pos hi]
  exact crcFold_append Config.crcSeed (s.take i) (b :: s.drop (i + 1))

/-- The CRC tells apart two strings that differ in one byte only. -/
theorem crc16_set_inj {s : List Byte} {i : Nat} (hi : i < s.length) {b : Byte} :
    crc16 (s.set i b) = crc16 s ↔ b = s[i] := by
  have hself := crc16_set hi s[i]
  rw [List.set_getElem_self] at hself
  rw [crc16_set hi, hself, crcFold_left_inj, crcStep_right_inj]

/-- Settles O26: `crc16` is a left fold. -/
theorem crcOfConcatenationIsIncremental : Obligations.CrcOfConcatenationIsIncremental :=
  crcFold_append Config.crcSeed

/-! ## `verify` -/

theorem verify_of_length_lt {s : List Byte} (h : s.length < 2) : verify s = false := if_pos h

theorem verify_iff {s : List Byte} (h : 2 ≤ s.length) :
    verify s = true ↔ (crc16 (frameBody s)).toNat = frameTrailer s := by
  rw [verify, if_neg h.not_gt, decide_eq_true_iff]

theorem exists_body_trailer {s : List Byte} (h : 2 ≤ s.length) : ∃ body lo hi, s = body ++ [lo, hi] := by
  have hdrop : (s.drop (s.length - 2)).length = 2 := by simp; omega
  obtain ⟨lo, hi, htrailer⟩ := List.length_eq_two.1 hdrop
  exact ⟨frameBody s, lo, hi, by rw [← htrailer, frameBody, List.take_append_drop]⟩

@[simp] theorem frameBody_append (body : List Byte) (lo hi : Byte) : frameBody (body ++ [lo, hi]) = body := by
  simp [frameBody]

@[simp] theorem frameTrailer_append (body : List Byte) (lo hi : Byte) :
    frameTrailer (body ++ [lo, hi]) = lo.toNat + 256 * hi.toNat := by
  simp [frameTrailer, le]

theorem verify_append_iff (body : List Byte) (lo hi : Byte) :
    verify (body ++ [lo, hi]) = true ↔ (crc16 body).toNat = lo.toNat + 256 * hi.toNat := by
  rw [verify_iff (by simp), frameBody_append, frameTrailer_append]

/-- A body verifies with the two bytes of its CRC after it, and with no others (R103). -/
theorem verify_append_iff_crc16_eq (body : List Byte) (lo hi : Byte) :
    verify (body ++ [lo, hi]) = true ↔ crc16 body = hi ++ lo := by
  rw [verify_append_iff, ← append_toNat]
  exact BitVec.toNat_inj

/-- The residue of a string that verifies is zero (R105 (b)). -/
theorem verify_iff_crc16_eq_zero {s : List Byte} (h : 2 ≤ s.length) : verify s = true ↔ crc16 s = 0 := by
  obtain ⟨body, lo, hi, rfl⟩ := exists_body_trailer h
  rw [verify_append_iff_crc16_eq, crc16, crc16, crcFold_append]
  exact crcStep_crcStep_eq_zero_iff.symm

/-- Settles O22: the last two bytes of a string are its trailer, and the empty body's CRC is the seed. -/
theorem verifyComparesBodyWithTrailer : Obligations.VerifyComparesBodyWithTrailer :=
  ⟨fun _ => verify_of_length_lt, verify_append_iff, fun x y =>
    (verify_append_iff_crc16_eq [] x y).trans (half_eq_append_iff (c := Config.crcSeed))⟩

/-- Settles O23: a string with its trailer is a frame. -/
theorem verifyAcceptsOwnTrailer : Obligations.VerifyAcceptsOwnTrailer := verify_frameOf

/-- Settles O24, by the residue and the one byte pair that leaves it zero. -/
theorem residueIsZeroExactlyWhenVerified : Obligations.ResidueIsZeroExactlyWhenVerified :=
  ⟨fun _ => verify_iff_crc16_eq_zero, fun _ _ _ => crcStep_crcStep_eq_zero_iff.trans half_eq_append_iff⟩

theorem one_shiftLeft_ne_zero {k : Nat} (hk : k < 8) : (1 : Byte) <<< k ≠ 0 := by
  intro hzero
  have hbit : ((1 : Byte) <<< k).getLsbD k = true := by simp [hk]
  rw [hzero] at hbit
  exact Bool.false_ne_true (BitVec.getLsbD_zero.symm.trans hbit)

/-- Settles O25: the flip changes one byte, so the residue is zero no more. -/
theorem singleBitFlipIsDetected : Obligations.SingleBitFlipIsDetected := by
  intro s i k hi hk hverify
  have hlen := two_le_length_of_verify hverify
  have hzero := (verify_iff_crc16_eq_zero hlen).1 hverify
  rw [← Bool.not_eq_true, verify_iff_crc16_eq_zero (by rwa [List.length_set]), ← hzero, crc16_set_inj hi]
  intro hsame
  exact one_shiftLeft_ne_zero hk (by simpa using hsame)

/-- Settles O21: the unit run on OSC's stop frame. -/
theorem stopFrameAudit : Obligations.StopFrameAudit := by
  unfold Obligations.StopFrameAudit
  decide

/-! ## The printed table -/

/-- The `n` entries of the table from the index `start` on, by the recurrence. -/
def crcTabRun (start n : Nat) : List Half := (List.range' start n).map fun k => crcTab (BitVec.ofNat 8 k)

theorem crcTabRun_append (start m n : Nat) :
    crcTabRun start m ++ crcTabRun (start + m) n = crcTabRun start (m + n) := by
  rw [crcTabRun, crcTabRun, crcTabRun, ← List.map_append, List.range'_append_1]

theorem crcTabPrinted0_eq : crcTabPrinted0 = crcTabRun 0 64 := by decide
theorem crcTabPrinted1_eq : crcTabPrinted1 = crcTabRun 64 64 := by decide
theorem crcTabPrinted2_eq : crcTabPrinted2 = crcTabRun 128 64 := by decide
theorem crcTabPrinted3_eq : crcTabPrinted3 = crcTabRun 192 64 := by decide

theorem crcTabPrinted_eq : crcTabPrinted = crcTabRun 0 256 := by
  rw [crcTabPrinted, crcTabPrinted0_eq, crcTabPrinted1_eq, crcTabPrinted2_eq, crcTabPrinted3_eq,
    crcTabRun_append 0 64 64, crcTabRun_append 0 128 64, crcTabRun_append 0 192 64]

/-- Settles O19: the printed quarters are the recurrence run on their indices. -/
theorem crcTableMatchesThePrintedOne : Obligations.CrcTableMatchesThePrintedOne := by
  refine ⟨?_, fun _ => rfl, fun _ => rfl, fun i => ?_⟩
  · rw [crcTabPrinted_eq, crcTabRun, List.length_map, List.length_range']
  · rw [crcTabPrinted_eq, crcTabRun, ← List.range_eq_range', List.getElem?_map, List.getElem?_range i.isLt,
      Option.map_some]

end Sys2Proof.Machine
end

section
/-! PROOF. The four commands of the CRC16 unit (40_crc16.md R106 to R110). -/

namespace Sys2Proof.Machine

variable {s : State}

theorem exec_crcinit (h : s.fault = false) : exec .crcinit s = .next (setCrc Config.crcSeed s) :=
  onCommandPort_unfaulted h

theorem exec_crcupd (b : Byte) (h : s.fault = false) :
    exec (.crcupd b) s = .next (setCrc (crcStep s.crcacc b) s) :=
  onCommandPort_unfaulted h

theorem exec_crccalc (h : s.fault = false) : exec .crccalc s = .next (setCrc (crc16 s.frame) s) :=
  onCommandPort_unfaulted h

theorem exec_crcvfy (h : s.fault = false) : exec .crcvfy s = .next (verifyFrame s) :=
  onCommandPort_unfaulted h

/-- Settles O27: the word is a row of the opcode table, and CRCINIT sets the accumulator to the seed. -/
theorem crcinitSeedsTheAccumulator : Obligations.CrcinitSeedsTheAccumulator :=
  ⟨fun _ => decodeCommand_eq_legal_iff.2 .crcinit, fun _ => exec_crcinit⟩

/-- A byte shifted to field A beside the opcode of CRCUPD (R71, R73). -/
theorem crcupd_word (b : Byte) : 0x00000011 ||| (b.zeroExtend 32 <<< 8) = wordOf 0 0 b 0x11 := by
  have hb : b.toNat < 256 := b.isLt
  have hor := Nat.two_pow_add_eq_or_of_lt (i := 8) (b := 0x11) (by decide) b.toNat
  have hshift : (b.zeroExtend 32 <<< 8).toNat = 2 ^ 8 * b.toNat := by
    rw [BitVec.toNat_shiftLeft, BitVec.toNat_setWidth, Nat.shiftLeft_eq]
    omega
  apply BitVec.eq_of_toNat_eq
  rw [wordOf_toNat, BitVec.or_comm, BitVec.toNat_or, hshift]
  exact hor.symm.trans (Nat.add_comm _ _)

/-- Settles O28: the byte is field A of its word, and the step starts from the accumulator. -/
theorem crcupdFeedsOneByte : Obligations.CrcupdFeedsOneByte := by
  refine ⟨fun b opv => ?_, fun b _ => exec_crcupd b⟩
  rw [crcupd_word]
  exact decodeCommand_eq_legal_iff.2 (.crcupd b)

/-- Settles O29: the word is a row of the opcode table, and CRCCALC reads the frame alone. -/
theorem crccalcCoversTheWholeFrame : Obligations.CrccalcCoversTheWholeFrame :=
  ⟨fun _ => decodeCommand_eq_legal_iff.2 .crccalc, fun _ => exec_crccalc⟩

/-- The trailer by its two indices (R110). -/
theorem frameTrailer_eq_getD {f : List Byte} (h : 2 ≤ f.length) :
    frameTrailer f = (f.getD (f.length - 2) 0).toNat + 256 * (f.getD (f.length - 1) 0).toNat := by
  obtain ⟨body, lo, hi, rfl⟩ := exists_body_trailer h
  simp

/-- Settles O30: what CRCVFY does, with the trailer by its two indices. -/
theorem crcvfyComparesAndRecords : Obligations.CrcvfyComparesAndRecords := by
  refine ⟨fun _ => decodeCommand_eq_legal_iff.2 .crcvfy, fun s hfault => ?_⟩
  rw [exec_crcvfy hfault]
  obtain ⟨hshort, he⟩ | ⟨hlen, he⟩ := verifyFrame_cases s
  · exact ⟨fun _ => ⟨congrArg _ he, verify_of_length_lt hshort⟩, fun hlen => absurd hshort hlen.not_gt⟩
  · refine ⟨fun hshort => absurd hshort hlen.not_gt, fun _ => ?_⟩
    have hverify := verify_iff hlen
    rw [← frameTrailer_eq_getD hlen, he]
    exact ⟨by simp only [hverify]; rfl, hverify⟩

/-- Settles O31: OK is the frame that verifies, whose residue is zero. -/
theorem crcvfyOkExactlyWhenCrccalcIsZero : Obligations.CrcvfyOkExactlyWhenCrccalcIsZero := by
  intro s hfault hlen
  refine ⟨_, _, exec_crcvfy hfault, exec_crccalc hfault, ?_⟩
  obtain ⟨hshort, -⟩ | ⟨-, he⟩ := verifyFrame_cases s
  · omega
  · rw [he, setCrc_crcacc, ← verify_iff_crc16_eq_zero hlen]
    cases verify s.frame
    · exact iff_of_false (by decide : stCrcBad ≠ 0) Bool.false_ne_true
    · exact iff_of_true rfl rfl

end Sys2Proof.Machine
end

section
/-! PROOF. XBITS: the field it cuts, as a number and bit by bit (41_bitfield_decoder.md R121, R122). -/

namespace Sys2Proof.Machine

/-! ## The extractor on natural numbers -/

theorem extractBits_zero_size (v off : Nat) : extractBits v off 0 = v := if_pos rfl

theorem extractBits_of_size_ne_zero (v off : Nat) {size : Nat} (h : size ≠ 0) :
    extractBits v off size = v / 2 ^ off % 2 ^ size := if_neg h

theorem extractBits_le (v off size : Nat) : extractBits v off size ≤ v := by
  obtain rfl | h := eq_or_ne size 0
  · rw [extractBits_zero_size]
  · rw [extractBits_of_size_ne_zero v off h]
    exact (Nat.mod_le _ _).trans (Nat.div_le_self _ _)

/-- A field that reaches the top of the value is the shifted value: the truncation removes no set bit (R121). -/
theorem extractBits_of_lt_two_pow {v off size : Nat} (h : v < 2 ^ (off + size)) (hsize : size ≠ 0) :
    extractBits v off size = v / 2 ^ off := by
  rw [extractBits_of_size_ne_zero v off hsize]
  rw [pow_add] at h
  exact Nat.mod_eq_of_lt (Nat.div_lt_of_lt_mul h)

/-- Inside a field bit `k` is bit `off + k` of the value, outside it 0 (R121). -/
theorem testBit_extractBits (v off : Nat) {size : Nat} (h : size ≠ 0) (k : Nat) :
    (extractBits v off size).testBit k = (decide (k < size) && v.testBit (off + k)) := by
  rw [extractBits_of_size_ne_zero v off h, Nat.testBit_mod_two_pow, Nat.testBit_div_two_pow, Nat.add_comm]

/-- Settles O34: each bound on `off` and `size` puts the value below `2^(off + size)`. -/
theorem extractBitsNeverWraps : Obligations.ExtractBitsNeverWraps := by
  intro v off size
  refine ⟨?_, extractBits_of_size_ne_zero v off, fun hv => ?_⟩
  · rintro rfl
    exact extractBits_zero_size v off
  have htop (h : 64 ≤ off + size) (hsize : size ≠ 0) : extractBits v off size = v / 2 ^ off :=
    extractBits_of_lt_two_pow (hv.trans_le (Nat.pow_le_pow_right (by decide) h)) hsize
  refine ⟨fun hoff hsize => ?_, fun h => htop (by omega) (by omega), fun h => htop h.le, ?_⟩
  · rw [htop (by omega) hsize]
    exact Nat.div_eq_of_lt (hv.trans_le (Nat.pow_le_pow_right (by decide) hoff))
  · exact (extractBits_le v off size).trans_lt hv

/-! ## The command -/

/-- A byte shifted within a word is multiplied, without loss (R71). -/
theorem toNat_zeroExtend_shiftLeft (x : Byte) {n : Nat} (hn : n ≤ 16) :
    (x.zeroExtend 32 <<< n).toNat = 2 ^ n * x.toNat := by
  have hx := x.isLt
  have hpow : 2 ^ n ≤ 2 ^ 16 := Nat.pow_le_pow_right (by decide) hn
  have hmul : 2 ^ n * x.toNat < 2 ^ 16 * 2 ^ 8 := Nat.mul_lt_mul_of_le_of_lt hpow hx (by decide)
  rw [BitVec.toNat_shiftLeft, BitVec.toNat_setWidth, Nat.mod_eq_of_lt (by omega : x.toNat < 2 ^ 32), Nat.shiftLeft_eq,
    Nat.mul_comm]
  exact Nat.mod_eq_of_lt (by omega)

/-- Fields A and B shifted beside an opcode (R71). -/
theorem opcode_or_fields (b a opc : Byte) :
    opc.zeroExtend 32 ||| (a.zeroExtend 32 <<< 8) ||| (b.zeroExtend 32 <<< 16) = wordOf 0 b a opc := by
  have ha := a.isLt
  have hopc := opc.isLt
  have hlow : opc.toNat ||| 2 ^ 8 * a.toNat = 2 ^ 8 * a.toNat + opc.toNat := by
    rw [Nat.or_comm, Nat.two_pow_add_eq_or_of_lt hopc]
  have hhigh : (2 ^ 8 * a.toNat + opc.toNat) ||| 2 ^ 16 * b.toNat =
      2 ^ 16 * b.toNat + (2 ^ 8 * a.toNat + opc.toNat) := by
    rw [Nat.or_comm, Nat.two_pow_add_eq_or_of_lt (b := 2 ^ 8 * a.toNat + opc.toNat) (by omega)]
  have hopcode : (opc.zeroExtend 32).toNat = opc.toNat := by
    rw [BitVec.toNat_setWidth]
    exact Nat.mod_eq_of_lt (by omega)
  apply BitVec.eq_of_toNat_eq
  rw [BitVec.toNat_or, BitVec.toNat_or, hopcode, toNat_zeroExtend_shiftLeft a (by decide),
    toNat_zeroExtend_shiftLeft b le_rfl, hlow, hhigh, wordOf_toNat]
  change _ = _ + _ + _ + 2 ^ 24 * 0
  omega

/-- RES holds the whole field (R121, R122). -/
theorem toNat_ofNat_extractBits (v : DWord) (off size : Nat) :
    (BitVec.ofNat 64 (extractBits v.toNat off size)).toNat = extractBits v.toNat off size := by
  rw [BitVec.toNat_ofNat]
  exact Nat.mod_eq_of_lt ((extractBits_le _ _ _).trans_lt v.isLt)

/-- Settles O33: the operands are fields A and B of the word, and a bit of RES is a bit of the number. -/
theorem xbitsCutsTheField : Obligations.XbitsCutsTheField := by
  refine ⟨fun off size opv => ?_, fun off size v s hfault => ?_⟩
  · have hword := opcode_or_fields size off 0x20
    exact decodeCommand_eq_legal_iff.2 (hword ▸ Encodes.xbits off size)
  · have hres := toNat_ofNat_extractBits v off.toNat size.toNat
    refine ⟨_, (exec_xbits off size v s).trans (onCommandPort_unfaulted hfault), hres, fun k _ => ?_⟩
    rw [BitVec.getLsbD, hres]
    split_ifs with hsize
    · subst hsize
      exact congrArg (Nat.testBit · k) (extractBits_zero_size _ _)
    · exact testBit_extractBits _ _ (fun h0 => hsize (BitVec.eq_of_toNat_eq h0)) k

end Sys2Proof.Machine
end

section
/-! PROOF. The DEC commands and TRIM: completion, underrun, unknown types and the payload window
(41_bitfield_decoder.md R123 to R127, R135, R136, R138 to R140). -/

namespace Sys2Proof.Machine

variable {s : State} {e : EType}

/-! ## A decode that fits and one that does not -/

theorem decodeElement_of_room (cw : Word) (hroom : (width s.params e : Int) ≤ s.windowLeft) :
    decodeElement e cw s = readElement e s := if_neg hroom.not_gt

theorem decodeElement_of_short (cw : Word) (hshort : s.windowLeft < (width s.params e : Int)) :
    decodeElement e cw s = raiseFault causeUnderrun cw s := if_pos hshort

theorem exec_decOf (e : EType) (hfault : s.fault = false) :
    exec (decOf e) s = .next (decodeElement e (encodeCW (decOf e)) s) := by
  rw [exec_eq_next_issue, issue_decOf e hfault]

theorem exec_decOf_of_room (hfault : s.fault = false) (hroom : (width s.params e : Int) ≤ s.windowLeft) :
    exec (decOf e) s = .next (readElement e s) := by
  rw [exec_decOf e hfault, decodeElement_of_room _ hroom]

/-- A draw is used by a binary32 NaN alone (R137, R142 (c)). -/
theorem usesDraw_iff (e : EType) (p : Nat) :
    usesDraw e p = true ↔ e = .f32 ∧ isNaN32 (BitVec.ofNat 32 p) = true := by
  simp [usesDraw]

/-! ## The twelve commands -/

/-- The element types in the order of their codes (R75). -/
def elementTypes : List EType := [.bool, .char, .i8, .u8, .i16, .u16, .i32, .u32, .i64, .u64, .f32, .f64]

/-- The DEC command of each element type with its command word (R73, R75, R125). -/
def decRows : List (Instr × EType × Word) := elementTypes.map fun e => (decOf e, e, encodeCW (decOf e))

theorem decode_encodeCW_decOf (e : EType) (opv : DWord) :
    decode (.command ⟨encodeCW (decOf e), opv⟩) = .legal (decOf e) := by
  have hrow : Encodes opv (encodeCW (decOf e)) (decOf e) := by
    cases e <;> exact .dec _
  exact decodeCommand_eq_legal_iff.2 hrow

/-- Settles O35: every row is the DEC of its type, and with room it reads the element. -/
theorem decReadsTheElementAtTheCursor : Obligations.DecReadsTheElementAtTheCursor := by
  intro r hr
  obtain ⟨e, -, rfl⟩ := List.mem_map.1 (show r ∈ decRows from hr)
  refine ⟨decode_encodeCW_decOf e, fun s w p hfault hw hp hroom => ?_⟩
  subst hw
  obtain rfl : p = s.elementAtCursor e := hp
  refine ⟨?_, readElement_cur_toNat hroom⟩
  rw [exec_decOf_of_room hfault hroom]
  simp only [readElement, usesDraw_iff]
  rfl

/-- Settles O36: every row is the DEC of its type, and without room it enters the fault with its own word. -/
theorem decUnderrunChangesNothingElse : Obligations.DecUnderrunChangesNothingElse := by
  intro r hr s hfault hshort
  obtain ⟨e, -, rfl⟩ := List.mem_map.1 (show r ∈ decRows from hr)
  rw [exec_decOf e hfault, decodeElement_of_short _ hshort]
  rfl

/-- The element of a one-byte type is the byte at the cursor (R126). -/
theorem elementAtCursor_of_width_one {b : Byte} (hw : width s.params e = 1)
    (hb : s.frame[s.cur.toNat]? = some b) : s.elementAtCursor e = b.toNat := by
  obtain ⟨hlt, hget⟩ := List.getElem?_eq_some_iff.1 hb
  rw [State.elementAtCursor, State.memRead, State.frameBytes, hw, List.drop_eq_getElem_cons hlt, hget]
  rfl

/-- Settles O37: the element is the byte, and it is zero exactly when the byte is. -/
theorem decBoolIsOneForEveryNonzeroByte : Obligations.DecBoolIsOneForEveryNonzeroByte := by
  intro s b hfault hcur hbyte
  have hroom : (width s.params .bool : Int) ≤ s.windowLeft := by
    rw [State.windowLeft]
    change (1 : Int) ≤ _
    omega
  have hp : s.elementAtCursor .bool = b.toNat := elementAtCursor_of_width_one rfl hbyte
  have hraw : BitVec.ofNat 64 b.toNat = b.zeroExtend 64 := BitVec.ofNat_toNat ..
  have hres (d : DWord) : conv .bool b.toNat d = if b = 0 then 0x0000000000000000 else 0x3FF0000000000000 := by
    have hzero : b.toNat = 0 ↔ b = 0 := (BitVec.toNat_eq (x := b) (y := 0)).symm
    simp only [conv, ne_eq, hzero, ite_not]
  refine (exec_decOf_of_room hfault hroom).trans ?_
  simp only [readElement, hp, hraw, hres]
  rfl

/-! ## Wide integers -/

/-- A pattern of 64 bits stands for an integer of at most 64 bits and a sign, whose conversion is the nearest double
(R13, R125). -/
theorem nearestEven_conv_wide (he : e = .i64 ∨ e = .u64) {p : Nat} (hp : p < 2 ^ 64) (d : DWord) :
    ∃ n, elementInt e p = some n ∧ NearestEven n (conv e p d) := by
  obtain ⟨n, hint, hn⟩ : ∃ n, elementInt e p = some n ∧ n.natAbs ≤ 2 ^ 64 := by
    obtain rfl | rfl := he
    · exact ⟨_, rfl, sint_natAbs_le hp⟩
    · exact ⟨_, rfl, hp.le⟩
  refine ⟨n, hint, ?_⟩
  rw [conv_of_elementInt hint]
  exact f64OfIntRoundsToNearestEven.2 n (by omega) (by omega)

/-- Settles O40: both are conversions of an integer, and RAW holds the pattern. -/
theorem wideIntegerDecodesRoundToNearestEven : Obligations.WideIntegerDecodesRoundToNearestEven := by
  intro r hr s hfault hroom
  obtain ⟨e, hmem, rfl⟩ := List.mem_map.1 (show r ∈ [EType.i64, .u64].map fun e => (decOf e, e) from hr)
  have he : e = .i64 ∨ e = .u64 := by simpa using hmem
  have hw : width s.params e = 8 := by
    obtain rfl | rfl := he <;> rfl
  have hp : s.elementAtCursor e = le ((s.frame.drop s.cur.toNat).take 8) := by
    rw [State.elementAtCursor, State.memRead, State.frameBytes, hw]
  have hlt : s.elementAtCursor e < 2 ^ 64 := (elementAtCursor_lt s e).trans_eq (by rw [hw]; rfl)
  obtain ⟨n, hint, hnear⟩ := nearestEven_conv_wide he hlt (Config.nanDraw s.nanDraws)
  refine ⟨readElement e s, n, exec_decOf_of_room hfault (by rw [hw]; exact hroom), hp ▸ hint, hnear, ?_⟩
  rw [readElement_raw_toNat, hp]

/-! ## The bytes of a double -/

/-- Byte `k` of a little-endian number is byte `k` of its string (R11, R50). -/
theorem le_byte {xs : List Byte} {k : Nat} (hk : k < xs.length) :
    le xs / 2 ^ (8 * k) % 2 ^ 8 = (xs[k]).toNat := by
  induction xs generalizing k with
  | nil => simp at hk
  | cons b xs ih =>
    have hb := b.isLt
    cases k with
    | zero =>
      simp only [le, List.getElem_cons_zero]
      omega
    | succ k =>
      have hshift : (b.toNat + 256 * le xs) / 2 ^ (8 * (k + 1)) = le xs / 2 ^ (8 * k) := by
        rw [Nat.mul_succ, Nat.pow_add, Nat.mul_comm (2 ^ (8 * k)), ← Nat.div_div_eq_div_mul]
        congr 1
        omega
      rw [le, hshift, List.getElem_cons_succ]
      exact ih (Nat.lt_of_succ_lt_succ hk)

/-- Settles O42: RES and RAW are one pattern, whose bytes are the frame's. -/
theorem decF64IsTheIdentity : Obligations.DecF64IsTheIdentity := by
  intro s hfault hframe hroom
  refine ⟨readElement .f64 s, exec_decOf_of_room (e := .f64) hfault hroom, rfl, fun k hk => ?_⟩
  have hin : s.cur.toNat + 8 ≤ s.frame.length := by omega
  have hlen : k < ((s.frame.drop s.cur.toNat).take 8).length := by
    rw [List.length_take, List.length_drop]
    omega
  have hraw : (readElement .f64 s).raw.toNat = le ((s.frame.drop s.cur.toNat).take 8) :=
    readElement_raw_toNat .f64 s
  have hbyte : (readElement .f64 s).raw.extractLsb' (8 * k) 8 = s.frame[s.cur.toNat + k] := by
    apply BitVec.eq_of_toNat_eq
    rw [BitVec.extractLsb'_toNat, hraw, Nat.shiftRight_eq_div_pow, le_byte hlen, List.getElem_take,
      List.getElem_drop]
  rw [show (readElement .f64 s).res = (readElement .f64 s).raw from rfl, hbyte]
  exact List.getElem?_eq_getElem _

/-! ## Unknown types -/

theorem exec_decUnk (code : Byte) (hfault : s.fault = false) :
    exec (.decUnk code) s = .next (decodeUnknown (encodeCW (.decUnk code)) s) :=
  onCommandPort_unfaulted hfault

theorem decodeUnknown_of_reject (cw : Word) (h : s.params.unknownEtype = .reject) :
    decodeUnknown cw s = raiseFault causeEtype cw s := by
  rw [decodeUnknown, h]

theorem decodeUnknown_of_defaultI32 (cw : Word) (h : s.params.unknownEtype = .defaultI32) :
    decodeUnknown cw s = decodeElement .i32 cw s := by
  rw [decodeUnknown, h]

/-- The word of `DEC #t`: the code in field A (R73, R75). -/
theorem decUnk_word (code : Byte) : 0x00000030 ||| (code.zeroExtend 32 <<< 8) = encodeCW (.decUnk code) := by
  have h := opcode_or_fields 0 code 0x30
  rwa [show (0 : Byte).zeroExtend 32 <<< 16 = 0#32 from rfl, BitVec.or_zero] at h

/-- Settles O44: the code is field A of the word, and the parameter chooses between the fault and the I32 decode. -/
theorem unknownTypeFollowsItsParameter : Obligations.UnknownTypeFollowsItsParameter := by
  intro code hcode
  rw [decUnk_word]
  refine ⟨fun opv => ?_, fun s hfault => ⟨fun hrej => ?_, fun hdef hroom => ?_, fun hdef hshort => ?_⟩⟩
  · have hrow := Encodes.dec (opv := opv) code
    rw [decodeDec_of_le hcode] at hrow
    exact decodeCommand_eq_legal_iff.2 hrow
  · rw [exec_decUnk code hfault, decodeUnknown_of_reject _ hrej]
    rfl
  · have hread : exec (.decUnk code) s = .next (readElement .i32 s) := by
      rw [exec_decUnk code hfault, decodeUnknown_of_defaultI32 _ hdef, decodeElement_of_room (e := .i32) _ hroom]
    exact ⟨hread.trans (exec_decOf_of_room (e := .i32) hfault hroom).symm, hread⟩
  · rw [exec_decUnk code hfault, decodeUnknown_of_defaultI32 _ hdef,
      decodeElement_of_short (e := .i32) _ hshort]
    rfl

/-! ## TRIM -/

/-- FLEN less the trailer, in 16 bits (R140). -/
theorem flen_sub_two (h : 2 ≤ s.frame.length) : BitVec.ofNat 16 (s.frame.length - 2) = s.flen - 2 := by
  apply BitVec.eq_of_toNat_eq
  rw [State.flen, BitVec.toNat_sub, BitVec.toNat_ofNat, BitVec.toNat_ofNat]
  change _ = (2 ^ 16 - 2 + _) % _
  omega

/-- Settles O45: the word is a row of the opcode table, and TRIM opens the window or faults. -/
theorem trimSelectsThePayload : Obligations.TrimSelectsThePayload := by
  refine ⟨fun _ => decodeCommand_eq_legal_iff.2 .trim, fun s hfault => ?_⟩
  have hexec : exec .trim s = .next (trimWindow (encodeCW .trim) s) := onCommandPort_unfaulted hfault
  rw [hexec]
  obtain ⟨hshort, h⟩ | ⟨hlen, h⟩ := trimWindow_cases (encodeCW .trim) s
  · exact ⟨fun hlen => absurd hshort hlen.not_gt, fun _ => congrArg _ h⟩
  · refine ⟨fun _ => ?_, fun hshort => absurd hshort hlen.not_gt⟩
    rw [h, flen_sub_two hlen]
    rfl

end Sys2Proof.Machine
end

section
/-! PROOF. DEC.F32 widens exactly (00_scope.md R13, 41_bitfield_decoder.md R137, R142 (c)). -/

namespace Sys2Proof.Machine

/-! ## Magnitudes -/

/-- The magnitude of a binary32 pattern with exponent field `e` and fraction `f` (R13). -/
def magnitude32 (e f : Nat) : ℚ :=
  if e = 0 then (f : ℚ) / 2 ^ 149 else ((2 ^ 23 + f : Nat) : ℚ) * 2 ^ e / 2 ^ 150

/-- The low 63 bits of the double of that magnitude: a subnormal takes a leading bit, a normal number keeps its
fraction at the top (R137). `f64OfF32_of_finite` ties it to the model. -/
def widened (e f : Nat) : Nat :=
  if e = 0 then if f = 0 then 0 else (f.log2 + 873) * 2 ^ 52 + significand f f.log2
  else (e + 895) * 2 ^ 52 + (2 ^ 23 + f) * 2 ^ 29

theorem log2_fraction_le {f : Nat} (hf : f < 2 ^ 23) : f.log2 ≤ 22 := by
  obtain rfl | h0 := eq_or_ne f 0
  · decide
  · exact Nat.lt_succ_iff.1 ((Nat.log2_lt h0).2 hf)

/-- A widened finite number stays finite. -/
theorem widened_lt {e f : Nat} (he : e < 255) (hf : f < 2 ^ 23) : widened e f < 2047 * 2 ^ 52 := by
  have hlog := log2_fraction_le hf
  unfold widened
  split_ifs with h0 hf0
  · decide
  · have := (significand_bounds hf0).2
    omega
  · omega

/-- Widening keeps the magnitude: a subnormal `f * 2^-149` and a normal number alike (R137). -/
theorem magnitude64_widened {e f : Nat} (hf : f < 2 ^ 23) : magnitude64 (widened e f) = magnitude32 e f := by
  have hlog := log2_fraction_le hf
  unfold widened magnitude32
  split_ifs with h0 hf0
  · simp [magnitude64, hf0]
  · obtain ⟨hlo, hhi⟩ := significand_bounds hf0
    have hsub : (2 : ℚ) ^ (52 - f.log2) * 2 ^ (f.log2 + 873) = 2 ^ 925 := by
      rw [← pow_add, show 52 - f.log2 + (f.log2 + 873) = 925 by omega]
    rw [magnitude64_significand hlo hhi, significand, if_pos (by omega), Nat.cast_mul, Nat.cast_pow, Nat.cast_ofNat,
      mul_assoc, hsub, show (1074 : Nat) = 149 + 925 from rfl, pow_add, mul_div_mul_right _ _ (by positivity)]
  · have hnormal : (2 : ℚ) ^ 29 * 2 ^ (e + 895) = 2 ^ e * 2 ^ 924 := by
      rw [← pow_add, ← pow_add, show 29 + (e + 895) = e + 924 by omega]
    rw [magnitude64_significand (by omega) (by omega), Nat.cast_mul, Nat.cast_pow, Nat.cast_ofNat, mul_assoc, hnormal,
      ← mul_assoc, show (1074 : Nat) = 150 + 924 from rfl, pow_add, mul_div_mul_right _ _ (by positivity)]

/-! ## Patterns -/

theorem signField_toNat (p : Word) : (p.extractLsb' 31 1).toNat = (p.getLsbD 31).toNat := by
  rw [BitVec.extractLsb'_toNat, Nat.shiftRight_eq_div_pow, BitVec.getLsbD, Nat.toNat_testBit]

theorem f32Value_eq (p : Word) :
    f32Value p =
      if p.getLsbD 31 = true then -magnitude32 (p.extractLsb' 23 8).toNat (p.extractLsb' 0 23).toNat
      else magnitude32 (p.extractLsb' 23 8).toNat (p.extractLsb' 0 23).toNat := by
  simp only [f32Value, signField_toNat, Bool.toNat_eq_one]
  rfl

/-- A finite pattern's exponent field is below 255 (R13). -/
theorem exponentField_lt {p : Word} (hfin : p.extractLsb' 23 8 ≠ 255) : (p.extractLsb' 23 8).toNat < 255 := by
  have h255 : (p.extractLsb' 23 8).toNat ≠ 255 := fun h => hfin (BitVec.eq_of_toNat_eq h)
  have := (p.extractLsb' 23 8).isLt
  omega

/-- A finite pattern keeps its sign in bit 63 over its widened magnitude (R137). -/
theorem f64OfF32_of_finite {p : Word} (hfin : p.extractLsb' 23 8 ≠ 255) (d : DWord) :
    f64OfF32 p d = BitVec.ofNat 64
      ((p.getLsbD 31).toNat * 2 ^ 63 + widened (p.extractLsb' 23 8).toNat (p.extractLsb' 0 23).toNat) := by
  have he := exponentField_lt hfin
  have hlog := log2_fraction_le (p.extractLsb' 0 23).isLt
  simp only [f64OfF32, signField_toNat, widened, significand]
  split_ifs with h0 hf0
  · rw [Nat.add_zero]
  · rw [Nat.add_assoc]
  · omega
  · have hnormal (sign x f : Nat) : sign + (x + 896) * 2 ^ 52 + f * 2 ^ 29 =
        sign + ((x + 895) * 2 ^ 52 + (2 ^ 23 + f) * 2 ^ 29) := by omega
    rw [hnormal]

theorem msb_of_toNat_eq {d : DWord} {b : Bool} {m : Nat} (h : d.toNat = b.toNat * 2 ^ 63 + m) (hm : m < 2 ^ 63) :
    d.msb = b ∧ d.toNat % 2 ^ 63 = m := by
  rw [BitVec.msb_eq_decide, h]
  cases b
  · simp only [Bool.toNat_false, decide_eq_false_iff_not]
    omega
  · simp only [Bool.toNat_true, decide_eq_true_eq]
    omega

/-- A finite pattern widens to a finite double of the same number and sign bit (R137, R142 (c)). -/
theorem f64OfF32_widens {p : Word} (hfin : p.extractLsb' 23 8 ≠ 255) (d : DWord) :
    isFinite64 (f64OfF32 p d) = true ∧ f64Value (f64OfF32 p d) = f32Value p ∧
      (f64OfF32 p d).getLsbD 63 = p.getLsbD 31 := by
  have he := exponentField_lt hfin
  have hf := (p.extractLsb' 0 23).isLt
  have hlt := widened_lt he hf
  have hnat : (f64OfF32 p d).toNat =
      (p.getLsbD 31).toNat * 2 ^ 63 + widened (p.extractLsb' 23 8).toNat (p.extractLsb' 0 23).toNat := by
    have := (p.getLsbD 31).toNat_le
    rw [f64OfF32_of_finite hfin, BitVec.toNat_ofNat]
    exact Nat.mod_eq_of_lt (by omega)
  obtain ⟨hmsb, hmod⟩ := msb_of_toNat_eq hnat (by omega)
  refine ⟨?_, ?_, ?_⟩
  · rw [isFinite64_iff, hmod]
    omega
  · rw [f64Value_eq, f32Value_eq, hmsb, hmod, magnitude64_widened hf]
  · rw [← hmsb, BitVec.msb_eq_getLsbD_last]

/-- An infinity widens to the infinity of its sign (R137). -/
theorem f64OfF32_of_infinity {p : Word} (he : p.extractLsb' 23 8 = 255) (hf : p.extractLsb' 0 23 = 0) (d : DWord) :
    f64OfF32 p d = if p.getLsbD 31 = true then 0xFFF0000000000000 else 0x7FF0000000000000 := by
  simp only [f64OfF32, signField_toNat, he, hf]
  cases p.getLsbD 31
  · rfl
  · rfl

/-- Whatever the free value, it stands for a NaN (P8, log 5): the bits set in it are an exponent of all ones and the
top fraction bit. -/
theorem isNaN_nanOf (d : DWord) : isNaN (nanOf d) = true := by
  unfold nanOf
  split_ifs with h
  · exact h
  · have hexp : (0x7FF8000000000000 ||| d).extractLsb' 52 11 = 0x7FF := by
      rw [BitVec.extractLsb'_or]
      exact BitVec.allOnes_or
    have htop : ((0x7FF8000000000000 ||| d).extractLsb' 0 52).getLsbD 51 = true := by
      rw [BitVec.getLsbD_extractLsb', BitVec.getLsbD_or]
      rfl
    have hfrac : (0x7FF8000000000000 ||| d).extractLsb' 0 52 ≠ 0 := fun h0 => by
      rw [h0] at htop
      cases htop
    exact decide_eq_true ⟨hexp, hfrac⟩

theorem f64OfF32_of_nan {p : Word} (h : isNaN32 p = true) (d : DWord) : f64OfF32 p d = nanOf d := by
  obtain ⟨he, hf⟩ := of_decide_eq_true h
  have hf0 : (p.extractLsb' 0 23).toNat ≠ 0 := fun h0 => hf (BitVec.eq_of_toNat_eq h0)
  simp only [f64OfF32, he, if_neg hf0]
  rfl

/-- Settles O41: a pattern is finite, an infinity or a NaN. -/
theorem decF32WidensExactly : Obligations.DecF32WidensExactly := by
  intro s p hfault hroom hp
  have hlt : s.elementAtCursor .f32 < 2 ^ 32 := elementAtCursor_lt s .f32
  have hres : (readElement .f32 s).res = f64OfF32 p (Config.nanDraw s.nanDraws) := by rw [hp]; rfl
  refine ⟨readElement .f32 s, exec_decOf_of_room (e := .f32) hfault hroom, ?_, ?_⟩
  · apply BitVec.eq_of_toNat_eq
    rw [readElement_raw_toNat, hp, BitVec.toNat_setWidth, BitVec.toNat_ofNat]
    change _ = s.elementAtCursor .f32 % _ % _
    omega
  · rw [hres]
    refine ⟨fun hfin => f64OfF32_widens hfin _, fun he hf => f64OfF32_of_infinity he hf _, fun hnan => ?_⟩
    rw [f64OfF32_of_nan hnan]
    exact isNaN_nanOf _

end Sys2Proof.Machine
end

section
/-! PROOF. The frame assembler: PUSH with and without room, the three answers of TAKE, and a frame that arrives in two
reads (42_frame_assembler.md R151 to R154). -/

namespace Sys2Proof.Machine

variable {s : State}

/-! ## Room in RXBUF -/

theorem holds_iff_le {p : Params} {cap : Nat} (hcap : p.bufCap = some cap) (n : Nat) :
    p.holds n = true ↔ n ≤ cap := by
  simp [Params.holds, hcap]

/-- The push transition is enabled while RXCNT is below BUF_CAP, if there is one (R151). -/
theorem rxReady_iff : s.rxReady = true ↔ ∀ cap, s.params.bufCap = some cap → s.rxcnt < cap := by
  cases hcap : s.params.bufCap <;> simp [State.rxReady, hcap]

theorem rxReady_eq_false {cap : Nat} (hcap : s.params.bufCap = some cap) (hfull : cap ≤ s.rxcnt) :
    s.rxReady = false := by
  rw [Bool.eq_false_iff, ne_eq, rxReady_iff]
  exact fun h => absurd (h cap hcap) hfull.not_gt

/-- Where one byte more is within the capacity there is room for it. -/
theorem rxReady_of_holds_succ (h : s.params.holds (s.rxcnt + 1) = true) : s.rxReady = true :=
  rxReady_iff.2 fun _ hcap => (holds_iff_le hcap _).1 h

/-! ## PUSH -/

theorem exec_push_of_ready (b : Byte) (h : s.rxReady = true) :
    exec (.push b) s = .next { s with rxbuf := s.rxbuf ++ [b] } :=
  congrArg _ (if_pos h)

theorem exec_push_of_not_ready (b : Byte) (h : s.rxReady = false) :
    exec (.push b) s = .next { s with rxLine := b :: s.rxLine } :=
  congrArg _ (if_neg (ne_true_of_eq_false h))

/-- Settles O47: the hypothesis is that the push transition is enabled. -/
theorem pushAppendsTheByte : Obligations.PushAppendsTheByte := fun b _ hroom =>
  exec_push_of_ready b (rxReady_iff.2 hroom)

/-- Settles O48: the push transition is not enabled, and the byte goes back where the RX agent took it from. -/
theorem fullBufferLeavesTheByteWithItsAgent : Obligations.FullBufferLeavesTheByteWithItsAgent := by
  refine ⟨fun b s cap hcap hfull => exec_push_of_not_ready b (rxReady_eq_false hcap hfull), ?_⟩
  intro s b bs ts cap hcap hfull hts hl
  have hfull' : ({ s with turns := ts, rxLine := bs } : State).rxReady = false := rxReady_eq_false hcap hfull
  calc step s = exec (.push b) { s with turns := ts, rxLine := bs } := step_of_rx hts hl
    _ = .next { s with turns := ts, rxLine := b :: bs } := exec_push_of_not_ready b hfull'
    _ = .next { s with turns := ts } := by rw [← hl]

/-! ## TAKE -/

/-- The word of `TAKE L`: the length in fields A and B (R74, R153). -/
theorem take_word (len : Half) : 0x00000040 ||| (len.zeroExtend 32 <<< 8) = encodeCW (.take len) := by
  have hlen := len.isLt
  have hshift : (len.zeroExtend 32 <<< 8).toNat = 2 ^ 8 * len.toNat := by
    rw [BitVec.toNat_shiftLeft, BitVec.toNat_setWidth, Nat.shiftLeft_eq]
    omega
  have hword : (encodeCW (.take len)).toNat = 64 + 2 ^ 8 * len.toNat := by
    rw [encodeCW, wordOf_toNat, BitVec.extractLsb'_toNat, BitVec.extractLsb'_toNat, Nat.shiftRight_zero,
      Nat.shiftRight_eq_div_pow]
    change 64 + _ + _ + 2 ^ 24 * 0 = _
    omega
  apply BitVec.eq_of_toNat_eq
  calc (0x00000040 ||| (len.zeroExtend 32 <<< 8)).toNat = 64 ||| 2 ^ 8 * len.toNat := by
        rw [BitVec.toNat_or, hshift]
        rfl
    _ = 2 ^ 8 * len.toNat + 64 := by rw [Nat.or_comm, Nat.two_pow_add_eq_or_of_lt (by decide)]
    _ = (encodeCW (.take len)).toNat := by rw [hword, Nat.add_comm]

theorem exec_take (len : Half) (hfault : s.fault = false) :
    exec (.take len) s = .next (takeFrame len.toNat (encodeCW (.take len)) s) :=
  onCommandPort_unfaulted hfault

theorem TakeLegal.not_out_of_range {len : Half} {p : Params} (h : TakeLegal len p) :
    ¬(len.toNat = 0 ∨ p.maxl < len.toNat) := by
  obtain ⟨hne, hmax⟩ := h
  exact not_or.2 ⟨fun h0 => hne (BitVec.eq_of_toNat_eq h0), hmax.not_gt⟩

theorem takeFrame_of_short {len : Half} (cw : Word) (hlegal : TakeLegal len s.params)
    (hshort : s.rxcnt < len.toNat) : takeFrame len.toNat cw s = { s with st := 1 } := by
  rw [takeFrame, if_neg hlegal.not_out_of_range, if_pos hshort]
  rfl

/-- TAKE of a frame that is in: the oldest bytes leave RXBUF for FRAME, and the window is the whole frame (R153). -/
theorem takeFrame_of_buffered {len : Half} (cw : Word) (hlegal : TakeLegal len s.params)
    (hin : len.toNat ≤ s.rxcnt) :
    takeFrame len.toNat cw s =
      { s with
        frame := s.rxbuf.take len.toNat
        rxbuf := s.rxbuf.drop len.toNat
        cur := 0
        cend := len
        st := 0 } := by
  rw [takeFrame, if_neg hlegal.not_out_of_range, if_neg hin.not_gt, moveFrame, BitVec.ofNat_toNat,
    BitVec.setWidth_eq]
  rfl

/-- Settles O46: the word is a row of the opcode table, and the three answers are the branches of TAKE. -/
theorem takeExtractsOneFrame : Obligations.TakeExtractsOneFrame := by
  simp only [Obligations.TakeExtractsOneFrame, take_word]
  refine ⟨fun len opv => decodeCommand_eq_legal_iff.2 (.take len), fun len s hfault => ?_⟩
  rw [exec_take len hfault]
  refine ⟨fun hbad => ?_, fun hne hmax hshort => ?_, fun hne hmax hin => ⟨?_, List.length_take_of_le hin⟩⟩
  · have hrange : len.toNat = 0 ∨ s.params.maxl < len.toNat := hbad.imp_left (congrArg BitVec.toNat)
    rw [takeFrame, if_pos hrange]
    rfl
  · rw [takeFrame_of_short _ ⟨hne, hmax⟩ hshort]
  · rw [takeFrame_of_buffered _ ⟨hne, hmax⟩ hin]

/-- Settles O49: `L <= MAXL <= BUF_CAP = RXCNT`, so TAKE has its frame. -/
theorem fullBufferServesEveryLegalTake : Obligations.FullBufferServesEveryLegalTake := by
  intro s cap len hfault ⟨_, _, hholds⟩ hcap hfull hne hmax
  have hle : len.toNat ≤ cap := hmax.trans ((holds_iff_le hcap _).1 hholds)
  have hlegal : TakeLegal len s.params := ⟨hne, hmax⟩
  have hpos : len.toNat ≠ 0 := fun h0 => hlegal.not_out_of_range (.inl h0)
  rw [exec_take len hfault, takeFrame_of_buffered _ hlegal (hle.trans_eq hfull.symm)]
  refine ⟨_, rfl, rfl, rfl, ?_⟩
  rw [State.rxcnt] at hfull
  rw [State.rxcnt, List.length_drop]
  omega

/-! ## Underlying reads -/

theorem issueAll_append (is js : List Instr) (s : State) :
    issueAll (is ++ js) s = issueAll js (issueAll is s) := by
  induction is generalizing s with
  | nil => rfl
  | cons i is ih => exact ih (issue i s)

/-- A read that fits the capacity appends its bytes and changes nothing else (R151). -/
theorem issueAll_rxRun (bs : List Byte) (s : State) (hroom : s.params.holds (s.rxcnt + bs.length) = true) :
    issueAll (rxRun bs) s = { s with rxbuf := s.rxbuf ++ bs } := by
  induction bs generalizing s with
  | nil => simp [rxRun, issueAll]
  | cons b bs ih =>
    rw [List.length_cons] at hroom
    have hready : s.rxReady = true := rxReady_of_holds_succ (holds_mono (by omega) hroom)
    have hpush : issue (.push b) s = { s with rxbuf := s.rxbuf ++ [b] } := by
      rw [issue, exec_push_of_ready b hready, nextOr_next]
    have hcnt : ({ s with rxbuf := s.rxbuf ++ [b] } : State).rxcnt + bs.length = s.rxcnt + (bs.length + 1) := by
      simp only [State.rxcnt, List.length_append, List.length_singleton]
      omega
    calc issueAll (rxRun (b :: bs)) s = issueAll (rxRun bs) { s with rxbuf := s.rxbuf ++ [b] } :=
          congrArg (issueAll (rxRun bs)) hpush
      _ = { s with rxbuf := s.rxbuf ++ [b] ++ bs } := ih _ (hcnt ▸ hroom)
      _ = { s with rxbuf := s.rxbuf ++ b :: bs } := by rw [List.append_assoc, List.singleton_append]

/-- A read and a TAKE: TAKE answers from the bytes with the read's behind them (R151, R153). -/
theorem issueAll_read_take (bs : List Byte) (len : Half) (hfault : s.fault = false)
    (hroom : s.params.holds (s.rxcnt + bs.length) = true) :
    issueAll (rxRun bs ++ [.take len]) s =
      takeFrame len.toNat (encodeCW (.take len)) { s with rxbuf := s.rxbuf ++ bs } := by
  rw [issueAll_append, issueAll_rxRun bs s hroom]
  exact issue_take len hfault

/-- Settles O52: the second read and TAKE run from the state the first ones leave, which differs in RXBUF and ST. -/
theorem splitFrameArrivesWhole : Obligations.SplitFrameArrivesWhole := by
  intro s xs ys len hfault ⟨_, _, hholds⟩ hempty hshort hsum hmax
  have hlegal : TakeLegal len s.params := ⟨fun h0 => by subst h0; exact absurd hshort (Nat.not_lt_zero _), hmax⟩
  have hroom : s.params.holds len.toNat = true := holds_mono hmax hholds
  have hfirst : issueAll (rxRun xs ++ [.take len]) s = { s with rxbuf := xs, st := 1 } := by
    have hxs : s.rxbuf ++ xs = xs := by rw [hempty, List.nil_append]
    rw [issueAll_read_take xs len hfault (holds_mono (by simp [State.rxcnt, hempty, hshort.le]) hroom), hxs,
      takeFrame_of_short (s := { s with rxbuf := xs }) _ hlegal hshort]
  refine ⟨hfirst, ?_⟩
  have hall : (xs ++ ys).length = len.toNat := by rw [List.length_append, hsum]
  rw [List.append_assoc, issueAll_append, hfirst,
    issueAll_read_take (s := { s with rxbuf := xs, st := 1 }) ys len hfault (holds_mono hsum.le hroom),
    takeFrame_of_buffered (s := { s with rxbuf := xs ++ ys, st := 1 }) _ hlegal hall.ge]
  simp only [List.take_of_length_le hall.le, List.drop_of_length_le hall.le]

end Sys2Proof.Machine
end

section
/-! PROOF. A frame that does not verify, in CAPTURE-FRAME, and sequence REPLY (43_link_sequences.md R171, R172, R174,
R175, R179, 20_memory.md R60). -/

namespace Sys2Proof.Machine

variable {s t : State}

/-! ## CRCVFY on the frame taken -/

/-- `t` is `s` after a CRCVFY that takes effect, and pushes: ST says whether the frame verifies (R60, R110). -/
def FrameChecked (s t : State) : Prop :=
  t.stream = s.stream ∧
    t = { s with
      crcacc := t.crcacc, rxbuf := t.rxbuf, rxLine := t.rxLine, st := if verify s.frame then stOk else stCrcBad }

theorem FrameChecked.st (h : FrameChecked s t) : t.st = if verify s.frame then stOk else stCrcBad := by
  obtain ⟨-, ht⟩ := h
  rw [ht]

theorem FrameChecked.frame (h : FrameChecked s t) : t.frame = s.frame := by
  obtain ⟨-, ht⟩ := h
  rw [ht]

/-- A frame of fewer than two bytes, on which CRCVFY keeps CRCACC, does not verify either (R103, R110). -/
theorem verifyFrame_checked (s : State) : FrameChecked s (verifyFrame s) := by
  obtain ⟨hshort, h⟩ | ⟨-, h⟩ := verifyFrame_cases s
  · rw [h, FrameChecked, verify_of_length_lt hshort]
    exact ⟨rfl, rfl⟩
  · rw [h]
    exact ⟨rfl, rfl⟩

theorem Pushed.trans_checked {u : State} (h₁ : Pushed s t) (h₂ : FrameChecked t u) : FrameChecked s u := by
  obtain ⟨hstream₁, -, ht⟩ := h₁
  obtain ⟨hstream₂, hu⟩ := h₂
  refine ⟨hstream₂.trans hstream₁, ?_⟩
  rw [hu, ht]

theorem issueAfter_crcvfy (k : Nat) (hfault : s.fault = false) : FrameChecked s (issueAfter k .crcvfy s) := by
  rw [issueAfter, issue_crcvfy (by rw [rxTurns_fault, hfault])]
  exact (rxTurns_pushed k s).trans_checked (verifyFrame_checked _)

/-! ## CAPTURE-FRAME on a bad frame -/

/-- CRCVFY is the last command of a capture whose frame does not verify (R172 lines 9 to 11, R174). -/
theorem captureTaken_of_bad (chs : List Channel) (gaps : Gaps) (hfault : s.fault = false)
    (hbad : verify s.frame = false) :
    captureTaken chs gaps s =
      (issueAfter (gaps 0) .crcvfy s, .emitted (List.replicate chs.length Config.nanSentinel)) := by
  have hst := (issueAfter_crcvfy (gaps 0) hfault).st
  simp only [hbad, Bool.false_eq_true, if_false] at hst
  rw [captureTaken, if_neg (by rw [hst]; decide), if_pos hst, List.map_const']

/-- Settles O54: TAKE and CRCVFY, the only commands issued, write neither RES nor RAW. -/
theorem captureOfABadFrameEmitsSentinels : Obligations.CaptureOfABadFrameEmitsSentinels := by
  refine ⟨by decide, fun s chs waits gaps hfault hp hmax harr hbad => ?_⟩
  obtain ⟨-, u, hpoll, hframe, hstream, hu⟩ := (capture_pollTake_cases chs waits hfault hp hmax).resolve_right
    fun ⟨hnot, _⟩ => hnot harr
  obtain ⟨-, hle, -⟩ := hp
  rw [takeLength_toNat (hmax.trans hle)] at hframe hstream
  have hufault : u.fault = false := by rw [hu, ← hfault]
  have hubad : verify u.frame = false := by rw [hframe, hbad]
  obtain ⟨htstream, ht⟩ := issueAfter_crcvfy (gaps 0) hufault
  refine ⟨_, (captureFrame_of_taken gaps hpoll).trans (captureTaken_of_bad chs gaps hufault hubad), ?_, ?_, ?_, ?_, ?_,
    htstream.trans hstream⟩
  · rw [State.Good, ht, ← hufault]
  · rw [ht, hubad]; rfl
  · rw [ht, hu]
  · rw [ht, hu]
  · rw [ht, ← hframe]

/-! ## REPLY -/

theorem replyTaken_eq (gaps : Gaps) (hfault : s.fault = false) :
    replyTaken gaps s =
      (issueAfter (gaps 0) .crcvfy s, if verify s.frame = true then .resolved s.frame else .crcFailure) := by
  have hchecked := issueAfter_crcvfy (gaps 0) hfault
  have hst := hchecked.st
  rw [replyTaken]
  cases hverify : verify s.frame with
  | true =>
    rw [if_pos (by rw [hst, if_pos hverify]), hchecked.frame]
    rfl
  | false =>
    simp only [hverify, Bool.false_eq_true, if_false] at hst ⊢
    rw [if_neg (by rw [hst]; decide), if_pos hst]

section
variable {len : Nat} {waits : List Nat} (gaps : Gaps)

theorem replySequence_of_taken (h : pollTake (takeLength len) waits s = (t, .taken)) :
    replySequence len waits gaps s = replyTaken gaps t := by
  simp only [replySequence, h]

theorem replySequence_of_faulted (h : pollTake (takeLength len) waits s = (t, .faulted)) :
    replySequence len waits gaps s = (t, .blockFault) := by
  simp only [replySequence, h]

theorem replySequence_of_stopped (h : pollTake (takeLength len) waits s = (t, .stopped)) :
    replySequence len waits gaps s = (t, .stopped) := by
  simp only [replySequence, h]
end

/-- REPLY of a legal length: the reply arrives and is judged by its trailer, or it does not and the host has only
waited (R175, R179). -/
theorem replySequence_cases {len : Nat} (waits : List Nat) (gaps : Gaps) (hfault : s.fault = false)
    (hp : s.params.Wf) (hne : len ≠ 0) (hmax : len ≤ s.params.maxl) :
    (s.Arrives len waits ∧ (replySequence len waits gaps s).2 =
        if verify (s.stream.take len) = true then .resolved (s.stream.take len) else .crcFailure) ∨
      (¬ s.Arrives len waits ∧ (replySequence len waits gaps s).2 = .stopped ∧
        (replySequence len waits gaps s).1.stream = s.stream) := by
  obtain ⟨hn, hlegal, hholds⟩ := takeLength_legal hp hne hmax
  have hcases := pollTake_cases waits hfault hlegal (by rwa [hn])
  rw [hn] at hcases
  obtain ⟨harr, t, hpoll, hframe, -, ht⟩ | ⟨hlate, t, hpoll, hpushed⟩ := hcases
  · have htfault : t.fault = false := by rw [ht, ← hfault]
    rw [hn] at hframe
    rw [replySequence_of_taken gaps hpoll, replyTaken_eq gaps htfault, hframe]
    exact .inl ⟨harr, rfl⟩
  · rw [replySequence_of_stopped gaps hpoll]
    exact .inr ⟨hlate, rfl, hpushed.stream⟩

/-- Settles O56, by the three ways in which POLLTAKE ends; a reply of one byte has no room for a trailer. -/
theorem replyIsResolvedExactlyWhenItVerifies : Obligations.ReplyIsResolvedExactlyWhenItVerifies := by
  refine ⟨fun s len waits gaps hfault hp hne hmax harr => ?_, fun s len waits gaps hfault hp hne hmax hlate => ?_,
    fun s len k waits gaps hfault hbad => ?_⟩
  · obtain ⟨-, hreply⟩ := (replySequence_cases waits gaps hfault hp hne hmax).resolve_right
      fun ⟨hnot, _⟩ => hnot harr
    refine ⟨hreply, fun hshort => ?_⟩
    have hbad : verify (s.stream.take len) = false :=
      verify_of_length_lt ((List.length_take_le len s.stream).trans_lt hshort)
    rw [hreply, hbad]
    rfl
  · obtain ⟨-, hstopped⟩ := (replySequence_cases waits gaps hfault hp hne hmax).resolve_left
      fun ⟨harr, _⟩ => hlate harr
    exact hstopped
  · have hpoll := pollTake_out_of_range k waits hfault (takeLength_out_of_range hbad)
    rw [replySequence_of_faulted gaps hpoll]
    exact ⟨rfl, rfl, rfl⟩

end Sys2Proof.Machine
end

section
/-! PROOF. Faults: a faulted block ignores every command and still receives bytes, and a command that faults has no
other effect and a cause that R202 gives it (60_exceptions.md R202, R206 to R209). -/

namespace Sys2Proof.Machine

variable {s t : State} {i : Instr}

/-! ## A faulted block -/

theorem exec_of_faulted (hpush : ∀ b, i ≠ .push b) (hfault : s.fault = true) : exec i s = .next s := by
  cases i with
  | push b => exact absurd rfl (hpush b)
  | xbits off size v => rw [exec_xbits, onCommandPort_faulted hfault]
  | _ => exact onCommandPort_faulted hfault

/-- No command word reaches a faulted block, whether it decodes or not (R207, R208). -/
theorem runTransaction_command_of_faulted (c : Command) (hfault : s.fault = true) :
    runTransaction (.command c) s = .next s := by
  cases hd : decodeCommand c with
  | legal i => rw [runTransaction_legal hd, exec_of_faulted (decodeCommand_ne_push hd) hfault]
  | illegal why => rw [runTransaction_illegal hd, illegalCommand, onCommandPort_faulted hfault]

/-- Settles O4: the command port ignores the host's word, and PUSH does not look at FAULT. -/
theorem faultedBlockIgnoresCommandsAndAcceptsBytes : Obligations.FaultedBlockIgnoresCommandsAndAcceptsBytes := by
  refine ⟨fun s c cs ts hfault hts hl => ?_, fun s b bs ts _ hts hl hroom => ?_⟩
  · exact (step_of_host hts hl).trans (runTransaction_command_of_faulted c hfault)
  · exact (step_of_rx hts hl).trans (exec_push_of_ready b (rxReady_iff.2 hroom))

/-! ## Fault entry -/

/-- The causes that R202 gives an instruction, each under its condition. -/
inductive FaultCause (s : State) : Instr → BitVec 3 → Prop where
  | takeLength {len : Half} (hlen : len = 0 ∨ s.params.maxl < len.toNat) : FaultCause s (.take len) causeLen
  | noTrailer (hlen : s.frame.length < 2) : FaultCause s .trim causeLen
  | underrun {i : Instr} {e : EType} (htype : decodedType s.params i = some e)
      (hshort : s.windowLeft < (width s.params e : Int)) : FaultCause s i causeUnderrun
  | unknownType {code : Byte} (hreject : s.params.unknownEtype = .reject) :
      FaultCause s (.decUnk code) causeEtype

/-- `t` is `s` with the fault bit as it was, or `s` after the fault entry of `i` for a cause that R202 gives it.
`exec_keepsFaultOrEnters` ties the relation to `exec`. -/
def KeepsFaultOrEnters (s : State) (i : Instr) (t : State) : Prop :=
  t.fault = s.fault ∨ ∃ cause, FaultCause s i cause ∧ t = raiseFault cause (encodeCW i) s

theorem decodeElement_keepsFaultOrEnters {e : EType} (htype : decodedType s.params i = some e) :
    KeepsFaultOrEnters s i (decodeElement e (encodeCW i) s) := by
  obtain ⟨hshort, h⟩ | ⟨-, h⟩ := decodeElement_cases e (encodeCW i) s <;> rw [h]
  · exact .inr ⟨_, .underrun htype hshort, rfl⟩
  · exact .inl (readElement_fault s e)

theorem decodeUnknown_keepsFaultOrEnters (code : Byte) :
    KeepsFaultOrEnters s (.decUnk code) (decodeUnknown (encodeCW (.decUnk code)) s) := by
  obtain ⟨hreject, h⟩ | ⟨hdefault, h⟩ := decodeUnknown_cases (encodeCW (.decUnk code)) s <;> rw [h]
  · exact .inr ⟨_, .unknownType hreject, rfl⟩
  · exact decodeElement_keepsFaultOrEnters (if_pos hdefault)

theorem trimWindow_keepsFaultOrEnters : KeepsFaultOrEnters s .trim (trimWindow (encodeCW .trim) s) := by
  obtain ⟨hlen, h⟩ | ⟨-, h⟩ := trimWindow_cases (encodeCW .trim) s <;> rw [h]
  · exact .inr ⟨_, .noTrailer hlen, rfl⟩
  · exact .inl rfl

theorem takeFrame_keepsFaultOrEnters (len : Half) :
    KeepsFaultOrEnters s (.take len) (takeFrame len.toNat (encodeCW (.take len)) s) := by
  obtain ⟨hbad, h⟩ | ⟨-, -, -, h⟩ | ⟨-, -, -, h⟩ :=
    takeFrame_cases len.toNat (encodeCW (.take len)) s <;> rw [h]
  · exact .inr ⟨_, .takeLength (hbad.imp_left BitVec.eq_of_toNat_eq), rfl⟩
  · exact .inl rfl
  · exact .inl rfl

theorem verifyFrame_fault (s : State) : (verifyFrame s).fault = s.fault := by
  obtain ⟨-, h⟩ | ⟨-, h⟩ := verifyFrame_cases s <;> rw [h]

/-- A command that is ignored keeps the fault bit, so its effect alone decides. -/
theorem keepsFaultOrEnters_of_onCommandPort {act : State → State} (hact : KeepsFaultOrEnters s i (act s))
    (h : onCommandPort act s = .next t) : KeepsFaultOrEnters s i t := by
  obtain ⟨-, rfl⟩ | ⟨-, rfl⟩ := onCommandPort_next h
  · exact .inl rfl
  · exact hact

theorem exec_keepsFaultOrEnters (h : exec i s = .next t) : KeepsFaultOrEnters s i t := by
  cases i with
  | push b =>
    obtain rfl : receiveByte b s = t := Host.Outcome.next.inj h
    exact .inl (receiveByte_fault s b)
  | crcinit | crcupd _ | crccalc => exact keepsFaultOrEnters_of_onCommandPort (.inl (setCrc_fault s _)) h
  | crcvfy => exact keepsFaultOrEnters_of_onCommandPort (.inl (verifyFrame_fault s)) h
  | xbits off size v =>
    rw [exec_xbits] at h
    exact keepsFaultOrEnters_of_onCommandPort (.inl rfl) h
  | decBool | decChar | decI8 | decU8 | decI16 | decU16
  | decI32 | decU32 | decI64 | decU64 | decF32 | decF64 =>
    exact keepsFaultOrEnters_of_onCommandPort (decodeElement_keepsFaultOrEnters rfl) h
  | decUnk code => exact keepsFaultOrEnters_of_onCommandPort (decodeUnknown_keepsFaultOrEnters code) h
  | trim => exact keepsFaultOrEnters_of_onCommandPort trimWindow_keepsFaultOrEnters h
  | take len => exact keepsFaultOrEnters_of_onCommandPort (takeFrame_keepsFaultOrEnters len) h

/-- An instruction that faults an unfaulted block does the fault entry and nothing else (R206, R209). -/
theorem exec_enters_fault (hfault : s.fault = false) (h : exec i s = .next t) (ht : t.fault = true) :
    ∃ cause, FaultCause s i cause ∧ t = raiseFault cause (encodeCW i) s := by
  refine (exec_keepsFaultOrEnters h).resolve_left fun hkeep => ?_
  rw [hkeep, hfault] at ht
  cases ht

/-- Settles O15, by the causes that R202 gives an instruction. -/
theorem faultEntryIsPrecise : Obligations.FaultEntryIsPrecise := by
  intro i s t hfault h ht
  obtain ⟨cause, hcause, rfl⟩ := exec_enters_fault hfault h ht
  refine ⟨rfl, ?_⟩
  cases hcause with
  | takeLength hlen => exact .inl ⟨rfl, _, rfl, hlen⟩
  | noTrailer hlen => exact .inr (.inl ⟨rfl, rfl, hlen⟩)
  | underrun htype hshort => exact .inr (.inr (.inl ⟨rfl, _, htype, hshort⟩))
  | unknownType hreject => exact .inr (.inr (.inr ⟨rfl, ⟨_, rfl⟩, hreject⟩))

end Sys2Proof.Machine
end

section
/-! PROOF. Every instruction ends in one transition (70_reset_and_hazards.md R242; logs 2 and 3). -/

namespace Sys2Proof.Machine

/-- Settles O12: a command is answered by the command port, faulted block or not, and PUSH keeps the byte or hands it
back to its agent. -/
theorem everyInstructionTerminatesInOneTransition : Obligations.EveryInstructionTerminatesInOneTransition :=
  exec_completes

end Sys2Proof.Machine
end
